-- ==== Sys2Proof/Word.lean ====
section
/-! DEFINITION. The bit vectors of the ports and the text type (10_state.md R21, R22, R31; 00_scope.md R9). -/

namespace Sys2Proof

/-- The command word `cmd = {n[7:0], op[3:0]}` (R61). -/
abbrev Command := BitVec 12

/-- The operation select field `op` of the command word (R61). -/
abbrev OpCode := BitVec 4

/-- The width field `n` of the command word, unsigned, 0 to 255 (R21, R61). -/
abbrev WidthField := BitVec 8

/-- An operand port: the pattern `f` of a double, or an unsigned integer `a` or `b` (R21). -/
abbrev Operand := BitVec 64

/-- The result port `res` (R22). -/
abbrev Result := BitVec 128

/-- One byte of a double held as eight bytes (R41). -/
abbrev Byte := BitVec 8

/-- A string of the requester: a sequence of characters (R9, R135). -/
abbrev Text := List Char

end Sys2Proof
end

