-- ==== Sys2Proof/Config.lean ====
section
/-! DEFINITION. What is fixed when the block is built (00_scope.md R5, R177), and the one free value, which is the
requester's and not the block's (40_bitdecoder.md R89). -/

namespace Sys2Proof

/-- The two sign semantics the document leaves open (R5, R82). -/
inductive SignMode where
  /-- `FSIGN` returns the stored sign bit. -/
  | ieeeBit
  /-- `FSIGN` reproduces the comparison `f < 0`. -/
  | ltZero
deriving DecidableEq, Repr

namespace Config

/-- Width `W` of each operand port (R5). -/
abbrev W : Nat := 64
/-- Width `RW` of the result port and of every exact intermediate (R5). -/
abbrev RW : Nat := 128
/-- Width `NW` of the truncation width `n` (R5). -/
abbrev NW : Nat := 8
/-- Width `OPW` of the operation select (R5). -/
abbrev OPW : Nat := 4
/-- Width of the sign field (R5). -/
abbrev SIGNW : Nat := 1
/-- Width of the exponent field (R5). -/
abbrev EXPW : Nat := 11
/-- Width of the mantissa field (R5). -/
abbrev MANW : Nat := 52
/-- The exponent bias, `2^10 - 1` (R5). -/
def BIAS : Nat := 1023

/-- `SIGN_MODE`: this hardware is built with `IEEE_BIT` (R5, R177; log 7). -/
def signMode : SignMode := .ieeeBit

/-- Free value (log 11): what decides the pattern a platform gives a NaN value in its `k`-th conversion, a sign and
a number from which a non-zero mantissa field is formed (R89). The block never reads it. -/
opaque nanDraw : Nat → Bool × Nat

end Config

end Sys2Proof
end

