-- ==== Sys2Proof/Syntax.lean ====
section
/-! DEFINITION. What the machine and its requester write: requests, instructions, and the written lines of a
transaction script (30_encoding.md R60 to R69). -/

namespace Sys2Proof

/-- The sixteen values of `op`: fifteen operations and the reserved code, in the order of R63. -/
inductive Op where
  | fbits | fsign | fexpf | fexpv | fmanf | fmanv
  | bitlen | isovf | lsbt | msbt | lsbta
  | addlt | mullt | addmt | mulmt
  | reserved15
deriving DecidableEq, Repr

/-- One encoded request, as the three input ports carry it (R31, R60). -/
structure Request where
  cmd : Command
  opa : Operand
  opb : Operand
deriving DecidableEq, Repr

/-- One decoded request: an operation with the fields it reads and no others (R64, R70). The types are those of the
ports, so that a value the ports cannot carry (V5, V6 of 93_implementation_defined.md) cannot be written. -/
inductive Instr where
  /-- `toBinaryString(f)` (R81). -/
  | fbits (f : Operand)
  /-- `signBit(f)` (R82). -/
  | fsign (f : Operand)
  /-- `exponentField(f)` (R83). -/
  | fexpf (f : Operand)
  /-- `exponentValue(f)` (R84). -/
  | fexpv (f : Operand)
  /-- `mantissaField(f)` (R85). -/
  | fmanf (f : Operand)
  /-- `mantissaValue(f)` (R86). -/
  | fmanv (f : Operand)
  /-- `bitLength(a)` (R105). -/
  | bitlen (a : Operand)
  /-- `isOverflow(a, n)` (R106). -/
  | isovf (n : WidthField) (a : Operand)
  /-- `lsbTruncate(a, n)` (R107). -/
  | lsbt (n : WidthField) (a : Operand)
  /-- `msbTruncate(a, n)` (R108). -/
  | msbt (n : WidthField) (a : Operand)
  /-- `lsbTruncateWithApproximation(a, n)` (R109). -/
  | lsbta (n : WidthField) (a : Operand)
  /-- `addWithLsbTrunc(a, b, n)` (R121). -/
  | addlt (n : WidthField) (a b : Operand)
  /-- `mulWithLsbTrunc(a, b, n)` (R122). -/
  | mullt (n : WidthField) (a b : Operand)
  /-- `addWithMsbTrunc(a, b, n)` (R123). -/
  | addmt (n : WidthField) (a b : Operand)
  /-- `mulWithMsbTrunc(a, b, n)` (R124). -/
  | mulmt (n : WidthField) (a b : Operand)
  /-- The reserved code 15 (R65). -/
  | reserved15
deriving DecidableEq, Repr

/-- The operation of an instruction. -/
def Instr.op : Instr → Op
  | .fbits _ => .fbits
  | .fsign _ => .fsign
  | .fexpf _ => .fexpf
  | .fexpv _ => .fexpv
  | .fmanf _ => .fmanf
  | .fmanv _ => .fmanv
  | .bitlen _ => .bitlen
  | .isovf _ _ => .isovf
  | .lsbt _ _ => .lsbt
  | .msbt _ _ => .msbt
  | .lsbta _ _ => .lsbta
  | .addlt _ _ _ => .addlt
  | .mullt _ _ _ => .mullt
  | .addmt _ _ _ => .addmt
  | .mulmt _ _ _ => .mulmt
  | .reserved15 => .reserved15

/-- Which request fields an operation reads (R64). -/
structure Reads where
  opa : Bool
  opb : Bool
  n   : Bool
deriving DecidableEq, Repr

/-- Why a number is not an encoded request: it has more than the 140 bits of the one format (R60). -/
inductive DecodeError where
  | widerThanRequest
deriving DecidableEq, Repr

/-- A double value of the requester before it is a pattern (R89, R139): a NaN value, whose pattern the platform
draws, or any other value, which stands here as its IEEE-754 encoding (log 11). -/
inductive HostDouble where
  | nan
  | number (bits : Operand)
deriving DecidableEq, Repr

/-- A written operand (R68, R69): a numeral, a back reference `%K`, or a floating-point literal `f:…` as the value
it stands for. -/
inductive Arg where
  | num (v : Nat)
  | ref (k : Nat)
  | dbl (d : HostDouble)
deriving DecidableEq, Repr

/-- One written request, `MNEMONIC n, opa [, opb]`; a field left out is `none` (R68). -/
structure Line where
  op  : Op
  n   : Option Arg
  opa : Option Arg
  opb : Option Arg
deriving DecidableEq, Repr

/-- Why a text is not one written request (R68). -/
inductive AsmError where
  /-- The first word is no mnemonic of R13 (or `RESERVED15`). -/
  | unknownMnemonic
  /-- A field is neither a numeral of the form R68 gives it nor `%K`. -/
  | badField
  /-- What follows `f:` is no floating-point literal. -/
  | badFloatLiteral
  /-- The number of fields fits no reading of the template. -/
  | badFieldCount
  /-- A label `tK:` that is not the line's own number (R69), or a line without one, comments and empty lines included
  (log 22). -/
  | badLabel
deriving DecidableEq, Repr

end Sys2Proof
end

