-- ==== Sys2Proof/Machine/Operands.lean ====
section
/-! DEFINITION. How an operation sees its request: which fields it reads (R64), the fields of a binary64 pattern
(40_bitdecoder.md R80), its byte order (20_memory.md R41, R42), and how a value is laid on `res` (R67). -/

namespace Sys2Proof

/-- The table of R64. -/
def Op.reads : Op → Reads
  | .fbits | .fsign | .fexpf | .fexpv | .fmanf | .fmanv => { opa := true, opb := false, n := false }
  | .bitlen => { opa := true, opb := false, n := false }
  | .isovf | .lsbt | .msbt | .lsbta => { opa := true, opb := false, n := true }
  | .addlt | .mullt | .addmt | .mulmt => { opa := true, opb := true, n := true }
  | .reserved15 => { opa := false, opb := false, n := false }

namespace Machine

/-- `S(f) = f[63]` (R80). -/
def signField (f : Operand) : BitVec 1 := f.extractLsb' 63 1

/-- `E(f) = f[62:52]`, the biased exponent (R80). -/
def exponentField (f : Operand) : BitVec 11 := f.extractLsb' 52 11

/-- `M(f) = f[51:0]` (R80). -/
def mantissaField (f : Operand) : BitVec 52 := f.extractLsb' 0 52

/-- Exponent field 2047 with a non-zero mantissa field (R82; PRESUMED, log 8). -/
def isNaN (f : Operand) : Bool := (exponentField f).toNat == 2047 && (mantissaField f).toNat != 0

/-- `uint(f[62:0]) = 0`: positive or negative zero (R82). -/
def isZero (f : Operand) : Bool := (f.extractLsb' 0 63).toNat == 0

/-- The bit `FSIGN` returns, under each value of `SIGN_MODE` (R82). -/
def signBit : SignMode → Operand → BitVec 1
  | .ieeeBit, f => signField f
  | .ltZero, f => if signField f = 1#1 ∧ isNaN f = false ∧ isZero f = false then 1#1 else 0#1

/-- The unbiased exponent, `uint(E(f)) - 1023` (R84). -/
def exponentValue (f : Operand) : Int := ((exponentField f).toNat : Int) - (Config.BIAS : Int)

/-- The mantissa field with the leading 1 prepended, whatever the exponent field (R86). -/
def mantissaValue (f : Operand) : BitVec 53 := 1#1 ++ mantissaField f

/-- `zext_128` of a bit vector (R8, R67). -/
def zext128 {k : Nat} (v : BitVec k) : Result := v.setWidth 128

/-- An unsigned integer on `res` (R67). -/
def unsignedResult (z : Nat) : Result := BitVec.ofNat 128 z

/-- `tc_128` of a signed integer (R8, R67). -/
def signedResult (z : Int) : Result := BitVec.ofInt 128 z

/-- A boolean in `res[0]` (R67). -/
def boolResult (p : Bool) : Result := zext128 (BitVec.ofBool p)

/-- Byte `Bi = opa[63-8i : 56-8i]` of the big-endian encoding, `i` from 0 to 7 (R41). -/
def opaByte (f : Operand) (i : Fin 8) : Byte := f.extractLsb' (56 - 8 * i.val) 8

/-- `opa = {B0, …, B7}` (R41). -/
def opaOfBigEndian (b : Fin 8 → Byte) : Operand :=
  b 0 ++ b 1 ++ b 2 ++ b 3 ++ b 4 ++ b 5 ++ b 6 ++ b 7

/-- `opa = {M7, …, M0}` for a little-endian memory image `M0 … M7` (R42). -/
def opaOfLittleEndian (m : Fin 8 → Byte) : Operand :=
  m 7 ++ m 6 ++ m 5 ++ m 4 ++ m 3 ++ m 2 ++ m 1 ++ m 0

/-- The NaN pattern that a sign and a number stand for: every number gives a non-zero mantissa field, and every
non-zero mantissa field comes from some number (R89). -/
def nanPattern (sign : Bool) (k : Nat) : Operand :=
  BitVec.ofBool sign ++ 2047#11 ++ BitVec.ofNat 52 (k % (2 ^ 52 - 1) + 1)

/-- The requester's conversion of a double value to its pattern, the `draw`-th one it makes (R89, R139). -/
def hostPattern (draw : Nat) : HostDouble → Operand
  | .nan => nanPattern (Config.nanDraw draw).1 (Config.nanDraw draw).2
  | .number bits => bits

end Machine

end Sys2Proof
end

