-- ==== Sys2Proof/WellFormed.lean ====
section
/-! DEFINITION. Which written terms stand for a request. An `Instr` needs no check: its fields have the ports' own
types, so every `Instr` can be presented (30_encoding.md R62, R66: every value of every field is legal). What can be
ill-formed is what the requester WRITES: a double value, a line, a script (R68, R69, R89; V5, V6). -/

namespace Sys2Proof

/-- A value other than a NaN does not stand as a NaN pattern (R89). -/
def HostDouble.wf : HostDouble → Bool
  | .nan => true
  | .number bits => !Machine.isNaN bits

/-- A written operand for a port of `width` bits: a numeral below `2^width` (R69; V6) or a double, which has 64
bits; a back reference is checked when it is used. -/
def Arg.fits (width : Nat) : Arg → Bool
  | .num v => v < 2 ^ width
  | .ref k => 1 ≤ k
  | .dbl d => width == 64 && d.wf

/-- A field may be left out only where the operation ignores it (R68), and a field that is there fits its port. -/
def fieldOk (reads : Bool) (width : Nat) : Option Arg → Bool
  | none => !reads
  | some a => a.fits width

/-- A written request whose three fields are well-formed (R68). -/
def Line.wf (l : Line) : Bool :=
  fieldOk l.op.reads.n 8 l.n && fieldOk l.op.reads.opa 64 l.opa && fieldOk l.op.reads.opb 64 l.opb

/-- A back reference names an earlier transaction (R69). -/
def Arg.refBelow (k : Nat) : Option Arg → Bool
  | some (.ref j) => 1 ≤ j && j < k
  | _ => true

/-- A script whose first line is transaction `k` (R69). -/
def scriptWfFrom : Nat → List Line → Bool
  | _, [] => true
  | k, l :: ls =>
    l.wf && Arg.refBelow k l.n && Arg.refBelow k l.opa && Arg.refBelow k l.opb && scriptWfFrom (k + 1) ls

/-- A well-formed transaction script; its lines are numbered from 1 (R69). -/
def scriptWf (ls : List Line) : Bool := scriptWfFrom 1 ls

end Sys2Proof
end

