-- ==== Sys2Proof/Decode.lean ====
section
/-! DEFINITION. The decoder, total on the 140 bits of a request, and the encoder (30_encoding.md R60 to R65, R70). -/

namespace Sys2Proof

/-- `op = cmd[3:0]` (R61). -/
def Request.op (r : Request) : OpCode := r.cmd.extractLsb' 0 4

/-- `n = cmd[11:4]` (R61). -/
def Request.n (r : Request) : WidthField := r.cmd.extractLsb' 4 8

/-- The number of an operation (R63). -/
def Op.code : Op → OpCode
  | .fbits => 0
  | .fsign => 1
  | .fexpf => 2
  | .fexpv => 3
  | .fmanf => 4
  | .fmanv => 5
  | .bitlen => 6
  | .isovf => 7
  | .lsbt => 8
  | .msbt => 9
  | .lsbta => 10
  | .addlt => 11
  | .mullt => 12
  | .addmt => 13
  | .mulmt => 14
  | .reserved15 => 15

/-- The operation a code selects (R63). -/
def Op.ofCode (code : OpCode) : Op :=
  match code[3], code[2], code[1], code[0] with
  | false, false, false, false => .fbits
  | false, false, false, true => .fsign
  | false, false, true, false => .fexpf
  | false, false, true, true => .fexpv
  | false, true, false, false => .fmanf
  | false, true, false, true => .fmanv
  | false, true, true, false => .bitlen
  | false, true, true, true => .isovf
  | true, false, false, false => .lsbt
  | true, false, false, true => .msbt
  | true, false, true, false => .lsbta
  | true, false, true, true => .addlt
  | true, true, false, false => .mullt
  | true, true, false, true => .addmt
  | true, true, true, false => .mulmt
  | true, true, true, true => .reserved15

/-- Decoding of one request (R62, R70): the operation of `op`, with the fields it reads. Every request decodes. -/
def decode (r : Request) : Instr :=
  match Op.ofCode r.op with
  | .fbits => .fbits r.opa
  | .fsign => .fsign r.opa
  | .fexpf => .fexpf r.opa
  | .fexpv => .fexpv r.opa
  | .fmanf => .fmanf r.opa
  | .fmanv => .fmanv r.opa
  | .bitlen => .bitlen r.opa
  | .isovf => .isovf r.n r.opa
  | .lsbt => .lsbt r.n r.opa
  | .msbt => .msbt r.n r.opa
  | .lsbta => .lsbta r.n r.opa
  | .addlt => .addlt r.n r.opa r.opb
  | .mullt => .mullt r.n r.opa r.opb
  | .addmt => .addmt r.n r.opa r.opb
  | .mulmt => .mulmt r.n r.opa r.opb
  | .reserved15 => .reserved15

/-- `cmd = {n, op}` (R61). -/
def commandWord (n : WidthField) (o : Op) : Command := n ++ o.code

/-- The request an instruction is written as; a field the operation ignores is zero (R61, R63, R68). -/
def encode : Instr → Request
  | .fbits f => ⟨commandWord 0 .fbits, f, 0⟩
  | .fsign f => ⟨commandWord 0 .fsign, f, 0⟩
  | .fexpf f => ⟨commandWord 0 .fexpf, f, 0⟩
  | .fexpv f => ⟨commandWord 0 .fexpv, f, 0⟩
  | .fmanf f => ⟨commandWord 0 .fmanf, f, 0⟩
  | .fmanv f => ⟨commandWord 0 .fmanv, f, 0⟩
  | .bitlen a => ⟨commandWord 0 .bitlen, a, 0⟩
  | .isovf n a => ⟨commandWord n .isovf, a, 0⟩
  | .lsbt n a => ⟨commandWord n .lsbt, a, 0⟩
  | .msbt n a => ⟨commandWord n .msbt, a, 0⟩
  | .lsbta n a => ⟨commandWord n .lsbta, a, 0⟩
  | .addlt n a b => ⟨commandWord n .addlt, a, b⟩
  | .mullt n a b => ⟨commandWord n .mullt, a, b⟩
  | .addmt n a b => ⟨commandWord n .addmt, a, b⟩
  | .mulmt n a b => ⟨commandWord n .mulmt, a, b⟩
  | .reserved15 => ⟨commandWord 0 .reserved15, 0, 0⟩

/-- A request with every field its operation ignores set to zero (R64, R68). -/
def Request.keepRead (r : Request) : Request :=
  let reads := (Op.ofCode r.op).reads
  { cmd := (if reads.n then r.n else 0) ++ r.op
    opa := if reads.opa then r.opa else 0
    opb := if reads.opb then r.opb else 0 }

/-- The 140-bit vector `{opb, opa, cmd}` (R60). -/
def Request.pack (r : Request) : BitVec 140 := r.opb ++ r.opa ++ r.cmd

/-- The three words of the 140-bit vector (R60). -/
def Request.unpack (w : BitVec 140) : Request :=
  { cmd := w.extractLsb' 0 12, opa := w.extractLsb' 12 64, opb := w.extractLsb' 76 64 }

/-- Decoding of a request written as one number (R60): a number of more than 140 bits is no request. -/
def decodeNumber (w : Nat) : Except DecodeError Instr :=
  if w < 2 ^ 140 then .ok (decode (Request.unpack (BitVec.ofNat 140 w))) else .error .widerThanRequest

/-- What the decoder reads from an instruction whose low `nbits` bits are `w` and whose other bits are zero, numbered
as R60 numbers them: `cmd` in bits 11 to 0, then `opa`, then `opb` (log 6). -/
def decodeTableWord (nbits w : Nat) : Option Instr :=
  match decodeNumber (w % 2 ^ nbits) with
  | .ok i => some i
  | .error _ => none

/-- A row of the opcode map: the command words `c` with `c &&& mask = pattern` (R63). -/
structure OpcodeRow where
  op      : Op
  pattern : Command
  mask    : Command
deriving DecidableEq, Repr

/-- The opcode map, row by row (R63). -/
def opcodeTable : List OpcodeRow :=
  [⟨.fbits, 0x000, 0x00F⟩, ⟨.fsign, 0x001, 0x00F⟩, ⟨.fexpf, 0x002, 0x00F⟩, ⟨.fexpv, 0x003, 0x00F⟩,
   ⟨.fmanf, 0x004, 0x00F⟩, ⟨.fmanv, 0x005, 0x00F⟩, ⟨.bitlen, 0x006, 0x00F⟩, ⟨.isovf, 0x007, 0x00F⟩,
   ⟨.lsbt, 0x008, 0x00F⟩, ⟨.msbt, 0x009, 0x00F⟩, ⟨.lsbta, 0x00A, 0x00F⟩, ⟨.addlt, 0x00B, 0x00F⟩,
   ⟨.mullt, 0x00C, 0x00F⟩, ⟨.addmt, 0x00D, 0x00F⟩, ⟨.mulmt, 0x00E, 0x00F⟩, ⟨.reserved15, 0x00F, 0x00F⟩]

end Sys2Proof
end

