-- ==== Sys2Proof/Machine/State.lean ====
section
/-! DEFINITION. The state: the request on the input ports and the response on the output ports. The block keeps
nothing else (10_state.md R20, R24 to R31, R33). -/

namespace Sys2Proof.Machine

/-- The error causes (R151). Cause 0, `NONE`, is no error. -/
inductive Cause where
  /-- `DOMAIN_VALUE`: the value handed to `bitlen` is 0. -/
  | domainValue
  /-- `DOMAIN_WIDTH`: a truncation of a non-zero value to width 0. -/
  | domainWidth
  /-- `ILLEGAL_OP`: the reserved operation code. -/
  | illegalOp
deriving DecidableEq, Repr

/-- The error kinds the block reports (R150). `FormatError` is host-only (R160) and is a `Fault` below. -/
inductive ErrorKind where
  | domainError
  | illegalOperation
deriving DecidableEq, Repr

/-- One response (R22): a result, or an error in place of it. An errored response holds no result (R22, R153; log 3). -/
inductive Response where
  | result (res : Result)
  | error (cause : Cause)
deriving DecidableEq, Repr

/-- The three output ports as bits (R31). -/
structure OutPorts where
  res   : Result
  err   : BitVec 1
  cause : BitVec 2
deriving DecidableEq, Repr

/-- The state of the machine: what the ports hold (R31; log 1). -/
structure State where
  /-- The input ports `cmd`, `opa`, `opb`. -/
  req : Request
  /-- The output ports `res`, `err`, `cause`, as the response they carry. -/
  rsp : Response
deriving DecidableEq, Repr

/-- Faults. The block has none: an error is a response (R153; log 4). -/
inductive Fault where
  /-- `FormatError`, raised by the requester's `binToUint` alone, on a character other than `0` and `1` (R138,
  R160). Safe: `step` never answers it. -/
  | formatError
deriving DecidableEq, Repr

/-- Refusals. `exec` answers none; all but the first are the requester's functions'. -/
inductive Refusal where
  /-- An instruction without a meaning, rejected in `exec`'s arm; no arm does so. Safe. -/
  | notModelled (mnemonic : String)
  /-- `binToUint` of the empty string, to which the spec gives no value (R138, V10). Safe. -/
  | emptyString
  /-- A script's line that is not well-formed: a read field left out, or a numeral wider than its port (R68, V6). Safe. -/
  | illFormedLine
  /-- `%K` where transaction `K` is not an earlier one that ended with `err = 0` (R69). Safe. -/
  | backReference (k : Nat)
  /-- `%K` whose value does not fit the port it is fed to (R69). Safe. -/
  | tooWideForPort (k : Nat)
  /-- An integer the unsigned 64-bit operand port cannot carry (R21, V5, V6). Safe. -/
  | cannotBePresented (z : Int)
deriving DecidableEq, Repr

/-- What an instruction, and a step, answers. -/
abbrev StepResult := Host.Outcome State Fault Refusal

/-- Just after a reset of what surrounds the block, which has no reset of its own (R33, R175). The request is
DESIGN CHOICE all zeros (log 2); the response is the one R33 asks for, that request's own: `FBITS` of 0. -/
def State.reset : State :=
  { req := { cmd := 0, opa := 0, opb := 0 }, rsp := .result 0 }

end Sys2Proof.Machine
end

