-- ==== Sys2Proof/Machine/Ops.lean ====
section
/-! DEFINITION. The shared operations: presenting a request, answering with a result or with an error, and the two
domain checks (R10, R31, R101, R110, R153). There is no trap entry and no return from one (R156, R157): `raise` is
all that taking an exception is on this hardware. -/

namespace Sys2Proof.Machine

/-- The requester puts a request on the input ports (R31). DESIGN CHOICE (log 21): until the step that answers it,
the output ports keep the response they held, where the spec says nothing of outputs that have not settled (R181, V9). -/
def State.present (s : State) (r : Request) : State := { s with req := r }

/-- The response of this transaction on the output ports (R31). -/
def State.answer (s : State) (r : Response) : State := { s with rsp := r }

/-- `rsp.res <- v`: the response has `err = 0`, `cause = 0` (R10). -/
def reply (v : Result) (s : State) : StepResult := .next (s.answer (.result v))

/-- `raise <Kind>(<cause>)`: the response has `err = 1` and the cause, no result, and nothing else happens (R10, R153,
R156). -/
def raise (c : Cause) (s : State) : StepResult := .next (s.answer (.error c))

/-- `if v = 0 then raise DomainError(DOMAIN_VALUE)`, else go on (R101). -/
def checkValue (v : Nat) (goOn : State → StepResult) (s : State) : StepResult :=
  if v = 0 then raise .domainValue s else goOn s

/-- `if n = 0 then raise DomainError(DOMAIN_WIDTH)`, else go on (R110). -/
def checkWidth (n : Nat) (goOn : State → StepResult) (s : State) : StepResult :=
  if n = 0 then raise .domainWidth s else goOn s

/-- A truncating operation (R107 to R109, R121 to R124): the value check, then the width check (R154), then the
policy applied to the exact value. -/
def truncating (policy : Nat → Nat → Nat) (v n : Nat) (s : State) : StepResult :=
  checkValue v (checkWidth n (reply (unsignedResult (policy v n)))) s

/-- Go on with the value of an outcome, or stop as it stops. -/
def andThen {α β : Type} (o : Host.Outcome α Fault Refusal) (f : α → Host.Outcome β Fault Refusal) :
    Host.Outcome β Fault Refusal :=
  match o with
  | .next a => f a
  | .fault r => .fault r
  | .refused r => .refused r

end Sys2Proof.Machine
end

