-- ==== Sys2Proof/Machine/BitDecoder.lean ====
section
/-! DEFINITION. The BitDecoder operations (40_bitdecoder.md R81 to R86). None can fail, and none classifies its
pattern (R88). -/

namespace Sys2Proof.Machine

/-- `FBITS` (R81). -/
def execFbits (f : Operand) (s : State) : StepResult := reply (zext128 f) s

/-- `FSIGN` under a given value of `SIGN_MODE` (R82). -/
def execFsignIn (mode : SignMode) (f : Operand) (s : State) : StepResult := reply (zext128 (signBit mode f)) s

/-- `FSIGN` as this hardware is built (R82, R177). -/
def execFsign (f : Operand) (s : State) : StepResult := execFsignIn Config.signMode f s

/-- `FEXPF` (R83). -/
def execFexpf (f : Operand) (s : State) : StepResult := reply (zext128 (exponentField f)) s

/-- `FEXPV` (R84). -/
def execFexpv (f : Operand) (s : State) : StepResult := reply (signedResult (exponentValue f)) s

/-- `FMANF` (R85). -/
def execFmanf (f : Operand) (s : State) : StepResult := reply (zext128 (mantissaField f)) s

/-- `FMANV` (R86). -/
def execFmanv (f : Operand) (s : State) : StepResult := reply (zext128 (mantissaValue f)) s

end Sys2Proof.Machine
end

