-- ==== Sys2Proof/Machine/Reserved.lean ====
section
/-! DEFINITION. The reserved operation code (30_encoding.md R65). -/

namespace Sys2Proof.Machine

/-- `op = 15`: `raise IllegalOperation(ILLEGAL_OP)`, whatever the other fields (R65). -/
def execReserved15 (s : State) : StepResult := raise .illegalOp s

end Sys2Proof.Machine
end

