-- ==== Sys2Proof/Machine/WidthTruncator.lean ====
section
/-! DEFINITION. The functions `bitlen`, `lsbt`, `msbt`, `lsbta` (41_widthtruncator.md R100 to R104) and the operations
on one integer and a width (R105 to R109). -/

namespace Sys2Proof.Machine

/-- `bitlen(v) = ⌊log2(v)⌋ + 1` for `v ≥ 1` (R100). Nothing reads it at 0: the value check comes first (R101; log 15). -/
def bitlen (v : Nat) : Nat := Nat.log2 v + 1

/-- LSB truncation: keeps the `n` leading bits (R102). -/
def lsbt (v n : Nat) : Nat := if bitlen v > n then v / 2 ^ (bitlen v - n) else v

/-- MSB truncation: keeps the `n` trailing bits (R103). -/
def msbt (v n : Nat) : Nat := if bitlen v > n then v % 2 ^ n else v

/-- The kept `n`-bit prefix `p` of a value longer than `n` bits (R104). -/
def keptPrefix (v n : Nat) : Nat := v / 2 ^ (bitlen v - n)

/-- The first discarded bit `d` (R104). -/
def firstDiscarded (v n : Nat) : Nat := v / 2 ^ (bitlen v - n - 1) % 2

/-- LSB truncation with approximation: rounds up on the first discarded bit, then re-truncates (R104). -/
def lsbta (v n : Nat) : Nat :=
  if bitlen v ≤ n then v
  else if firstDiscarded v n = 1 then lsbt (keptPrefix v n + 1) n
  else keptPrefix v n

/-- `BITLEN` (R105). -/
def execBitlen (a : Operand) (s : State) : StepResult :=
  checkValue a.toNat (reply (unsignedResult (bitlen a.toNat))) s

/-- `ISOVF` (R106): defined at `n = 0` too. -/
def execIsovf (n : WidthField) (a : Operand) (s : State) : StepResult :=
  checkValue a.toNat (reply (boolResult (decide (bitlen a.toNat > n.toNat)))) s

/-- `LSBT` (R107). -/
def execLsbt (n : WidthField) (a : Operand) (s : State) : StepResult := truncating lsbt a.toNat n.toNat s

/-- `MSBT` (R108). -/
def execMsbt (n : WidthField) (a : Operand) (s : State) : StepResult := truncating msbt a.toNat n.toNat s

/-- `LSBTA` (R109). -/
def execLsbta (n : WidthField) (a : Operand) (s : State) : StepResult := truncating lsbta a.toNat n.toNat s

end Sys2Proof.Machine
end

