-- ==== Sys2Proof/Machine/WidthArith.lean ====
section
/-! DEFINITION. Width-aware addition and multiplication (42_width_arith.md R120 to R126): the exact sum or product,
then one policy. The checks fall on the sum or product, never on an operand (R126). -/

namespace Sys2Proof.Machine

/-- `ADDLT` (R121). -/
def execAddlt (n : WidthField) (a b : Operand) (s : State) : StepResult :=
  truncating lsbt (a.toNat + b.toNat) n.toNat s

/-- `MULLT` (R122). -/
def execMullt (n : WidthField) (a b : Operand) (s : State) : StepResult :=
  truncating lsbt (a.toNat * b.toNat) n.toNat s

/-- `ADDMT` (R123). -/
def execAddmt (n : WidthField) (a b : Operand) (s : State) : StepResult :=
  truncating msbt (a.toNat + b.toNat) n.toNat s

/-- `MULMT` (R124). -/
def execMulmt (n : WidthField) (a b : Operand) (s : State) : StepResult :=
  truncating msbt (a.toNat * b.toNat) n.toNat s

end Sys2Proof.Machine
end

