-- ==== Sys2Proof/Machine/Dispatch.lean ====
section
/-! DEFINITION. One arm per operation (30_encoding.md R70). -/

namespace Sys2Proof.Machine

def exec (i : Instr) (s : State) : Host.Outcome State Fault Refusal :=
  match i with
  | .fbits f => Sys2Proof.Machine.execFbits f s
  | .fsign f => Sys2Proof.Machine.execFsign f s
  | .fexpf f => Sys2Proof.Machine.execFexpf f s
  | .fexpv f => Sys2Proof.Machine.execFexpv f s
  | .fmanf f => Sys2Proof.Machine.execFmanf f s
  | .fmanv f => Sys2Proof.Machine.execFmanv f s
  | .bitlen a => Sys2Proof.Machine.execBitlen a s
  | .isovf n a => Sys2Proof.Machine.execIsovf n a s
  | .lsbt n a => Sys2Proof.Machine.execLsbt n a s
  | .msbt n a => Sys2Proof.Machine.execMsbt n a s
  | .lsbta n a => Sys2Proof.Machine.execLsbta n a s
  | .addlt n a b => Sys2Proof.Machine.execAddlt n a b s
  | .mullt n a b => Sys2Proof.Machine.execMullt n a b s
  | .addmt n a b => Sys2Proof.Machine.execAddmt n a b s
  | .mulmt n a b => Sys2Proof.Machine.execMulmt n a b s
  | .reserved15 => Sys2Proof.Machine.execReserved15 s

end Sys2Proof.Machine
end

