-- ==== Sys2Proof/Machine/Flags.lean ====
section
/-! DEFINITION. The status outputs. The block has no flags (10_state.md R26); `err` and `cause` belong to one response
and are computed here from it (R22, R31, R150 to R152). -/

namespace Sys2Proof.Machine

/-- The code of a cause on the `cause` output (R151). -/
def Cause.code : Cause → BitVec 2
  | .domainValue => 1
  | .domainWidth => 2
  | .illegalOp => 3

/-- The cause a code stands for; code 0 is `NONE` (R151). -/
def Cause.ofCode (c : BitVec 2) : Option Cause :=
  match c.toFin with
  | 0 => none
  | 1 => some .domainValue
  | 2 => some .domainWidth
  | 3 => some .illegalOp

/-- The error kind of a cause (R150, R151). -/
def Cause.kind : Cause → ErrorKind
  | .domainValue => .domainError
  | .domainWidth => .domainError
  | .illegalOp => .illegalOperation

/-- The `err` output (R22). -/
def Response.err : Response → BitVec 1
  | .result _ => 0
  | .error _ => 1

/-- The `cause` output (R22, R151). -/
def Response.cause : Response → BitVec 2
  | .result _ => 0
  | .error c => c.code

/-- The result, which an errored response does not have (R22). -/
def Response.res? : Response → Option Result
  | .result v => some v
  | .error _ => none

/-- The output ports of a response. `unspecified` is what the `res` port carries when `err = 1`: the spec leaves it
unspecified (R22, V1), so it is an argument and every statement is for all its values. -/
def Response.drive (unspecified : Result) (r : Response) : OutPorts :=
  { res := r.res?.getD unspecified, err := r.err, cause := r.cause }

/-- What a consumer may take from the output ports: `res` only when `err = 0` (R22). Two bits of status that no
response has give none. -/
def OutPorts.read (p : OutPorts) : Option Response :=
  match p.err, Cause.ofCode p.cause with
  | 0#1, none => some (.result p.res)
  | 1#1, some c => some (.error c)
  | _, _ => none

/-- Which causes an operation can raise (R152). -/
def causes : Op → List Cause
  | .fbits | .fsign | .fexpf | .fexpv | .fmanf | .fmanv => []
  | .bitlen | .isovf => [.domainValue]
  | .lsbt | .msbt | .lsbta | .addlt | .mullt | .addmt | .mulmt => [.domainValue, .domainWidth]
  | .reserved15 => [.illegalOp]

end Sys2Proof.Machine
end

