-- ==== Sys2Proof/Machine/Step.lean ====
section
/-! DEFINITION. One step is one transaction: the request on the input ports is decoded and answered (30_encoding.md
R70; 70_reset_and_hazards.md R180). -/

namespace Sys2Proof.Machine

/-- The whole step of the machine (R70). -/
def step (s : State) : Host.Outcome State Fault Refusal := exec (decode s.req) s

/-- The requester presents the request whose low `nbits` bits, as the one number of R60, are `w`, every other bit
zero: the very next step answers it (log 5, log 6). -/
def State.withFetchWord (s : State) (nbits w : Nat) : State :=
  s.present (Request.unpack (BitVec.ofNat 140 (w % 2 ^ nbits)))

end Sys2Proof.Machine
end

