-- ==== Sys2Proof/Machine/Literal.lean ====
section
/-! DEFINITION. The requester's numerals and floating-point literals `f:…` (30_encoding.md R68; 40_bitdecoder.md R89).
The spec takes a value's binary64 encoding as given. That a decimal which is no binary64 value is rounded to the
nearest one, ties to even, is PRESUMED (log 14). -/

namespace Sys2Proof.Machine

/-- A decimal digit's value: the number below ten that is printed as this character. -/
def decimalDigit (c : Char) : Option Nat := (List.range 10).find? fun v => Nat.digitChar v == c

/-- The value of a run of digits in a base, most significant first. -/
def digitsFrom (base : Nat) (digit : Char → Option Nat) : Nat → Text → Option Nat
  | acc, [] => some acc
  | acc, c :: cs =>
    match digit c with
    | some d => digitsFrom base digit (base * acc + d) cs
    | none => none

/-- A numeral: at least one digit. -/
def numeral (base : Nat) (digit : Char → Option Nat) (t : Text) : Option Nat :=
  if t = [] then none else digitsFrom base digit 0 t

/-- `⌊log2(num / den)⌋` of a positive fraction. -/
def fractionLog2 (num den : Nat) : Int :=
  let e : Int := (num.log2 : Int) - (den.log2 : Int)
  if num * 2 ^ (-e).toNat < den * 2 ^ e.toNat then e - 1 else e

/-- The integer nearest to a fraction, ties to even. -/
def nearestEven (num den : Nat) : Nat :=
  let q := num / den
  let r := num % den
  if 2 * r < den then q
  else if 2 * r > den then q + 1
  else q + q % 2

/-- The exponent of the unit in which the significand of a positive fraction is counted: 52 places below its leading
bit, and never below the least subnormal `2^-1074`. -/
def unitExponent (num den : Nat) : Int := max (fractionLog2 num den - 52) (-1074)

/-- The significand of a fraction, rounded to its unit. -/
def roundedSignificand (num den : Nat) : Nat :=
  nearestEven (num * 2 ^ (-unitExponent num den).toNat) (den * 2 ^ (unitExponent num den).toNat)

/-- `f[62:0]` of the binary64 number nearest to `num / den`, as a number: the significand's leading 1 carries into
the exponent field, and what is too large is infinity (log 14). -/
def binary64Magnitude (num den : Nat) : Nat :=
  if num = 0 then 0
  else min ((unitExponent num den + 1074).toNat * 2 ^ 52 + roundedSignificand num den) (2047 * 2 ^ 52)

/-- The pattern of a signed fraction (R80, R89). -/
def binary64Pattern (negative : Bool) (num den : Nat) : Operand :=
  BitVec.ofBool negative ++ BitVec.ofNat 63 (binary64Magnitude num den)

/-- The number a finite pattern stands for, without its sign, in units of `2^-1074` (R80; PRESUMED, log 14). -/
def binary64Units (f : Operand) : Nat :=
  if (exponentField f).toNat = 0 then (mantissaField f).toNat
  else (mantissaValue f).toNat * 2 ^ ((exponentField f).toNat - 1)

/-- A decimal `digits` or `digits.digits` as a fraction: its digits and the power of ten under them (log 13). -/
def decimalFraction (t : Text) : Option (Nat × Nat) :=
  let whole := t.takeWhile (· != '.')
  match t.dropWhile (· != '.') with
  | [] => (numeral 10 decimalDigit whole).map fun v => (v, 1)
  | _ :: places =>
    match numeral 10 decimalDigit whole, numeral 10 decimalDigit places with
    | some w, some p => some (w * 10 ^ places.length + p, 10 ^ places.length)
    | _, _ => none

/-- What follows `f:` : `nan`, `inf`, `-inf`, or a decimal with an optional minus sign (log 13). -/
def floatLiteral (t : Text) : Option HostDouble :=
  if t = ['n', 'a', 'n'] then some .nan
  else if t = ['i', 'n', 'f'] then some (.number 0x7FF0000000000000#64)
  else if t = ['-', 'i', 'n', 'f'] then some (.number 0xFFF0000000000000#64)
  else
    match t with
    | '-' :: u => (decimalFraction u).map fun q => .number (binary64Pattern true q.1 q.2)
    | _ => (decimalFraction t).map fun q => .number (binary64Pattern false q.1 q.2)

end Sys2Proof.Machine
end

