-- ==== Sys2Proof/Machine/Script.lean ====
section
/-! DEFINITION. The requester's sequences of transactions: plain lists of requests (R47, R70) and the written scripts
with back references (30_encoding.md R68, R69). Nothing here is state of the block (R25, R69). -/

namespace Sys2Proof.Machine

/-- One transaction: present a request, step (R23, R31). -/
def transact (s : State) (r : Request) : StepResult := step (s.present r)

/-- A list of transactions on one copy of the block: the responses in order, and the state left (R47). -/
def serve : List Request → State → Host.Outcome (List Response × State) Fault Refusal
  | [], s => .next ([], s)
  | r :: rs, s =>
    andThen (transact s r) fun s' =>
      andThen (serve rs s') fun rest => .next (s'.rsp :: rest.1, rest.2)

/-- The value of a back reference `%k`: `uint(res)` of transaction `k`, which must have ended with `err = 0` (R69).
`done` holds the responses so far, transaction 1 first. -/
def backReference (done : List Response) (k : Nat) : Host.Outcome Nat Fault Refusal :=
  match k with
  | 0 => .refused (.backReference 0)
  | j + 1 =>
    match done[j]? with
    | some (.result v) => .next v.toNat
    | some (.error _) => .refused (.backReference k)
    | none => .refused (.backReference k)

/-- The number a field carries, for a port of `width` bits: a field left out is zero (R68); a back reference must fit
(R69). `draw` numbers the requester's conversions of doubles (log 11). -/
def fieldValue (done : List Response) (draw width : Nat) : Option Arg → Host.Outcome Nat Fault Refusal
  | none => .next 0
  | some (.num v) => .next v
  | some (.dbl d) => .next (hostPattern draw d).toNat
  | some (.ref k) =>
    andThen (backReference done k) fun v => if v < 2 ^ width then .next v else .refused (.tooWideForPort k)

/-- The request a line stands for, after the responses `done` (R68, R69). -/
def Line.request (done : List Response) (l : Line) : Host.Outcome Request Fault Refusal :=
  if l.wf then
    andThen (fieldValue done 0 8 l.n) fun n =>
      andThen (fieldValue done (2 * done.length) 64 l.opa) fun a =>
        andThen (fieldValue done (2 * done.length + 1) 64 l.opb) fun b =>
          .next { cmd := commandWord (BitVec.ofNat 8 n) l.op, opa := BitVec.ofNat 64 a, opb := BitVec.ofNat 64 b }
  else .refused .illFormedLine

/-- A script from its next line on, after the responses `done`: every response of it, transaction 1 first, and the
state left (R69). -/
def runScriptFrom : List Response → List Line → State → Host.Outcome (List Response × State) Fault Refusal
  | done, [], s => .next (done, s)
  | done, l :: ls, s =>
    andThen (Line.request done l) fun r =>
      andThen (transact s r) fun s' => runScriptFrom (done ++ [s'.rsp]) ls s'

/-- A transaction script (R69). -/
def runScript (ls : List Line) (s : State) : Host.Outcome (List Response × State) Fault Refusal :=
  runScriptFrom [] ls s

end Sys2Proof.Machine
end

