-- ==== Sys2Proof/Machine/Assembler.lean ====
section
/-! DEFINITION. The written form of a request, `MNEMONIC n, opa [, opb]`, and of a script's line, `tK: MNEMONIC …`
(30_encoding.md R68, R69). -/

namespace Sys2Proof.Machine

/-- The mnemonic of an operation (R13, R63). -/
def mnemonic : Op → Text
  | .fbits => ['F', 'B', 'I', 'T', 'S']
  | .fsign => ['F', 'S', 'I', 'G', 'N']
  | .fexpf => ['F', 'E', 'X', 'P', 'F']
  | .fexpv => ['F', 'E', 'X', 'P', 'V']
  | .fmanf => ['F', 'M', 'A', 'N', 'F']
  | .fmanv => ['F', 'M', 'A', 'N', 'V']
  | .bitlen => ['B', 'I', 'T', 'L', 'E', 'N']
  | .isovf => ['I', 'S', 'O', 'V', 'F']
  | .lsbt => ['L', 'S', 'B', 'T']
  | .msbt => ['M', 'S', 'B', 'T']
  | .lsbta => ['L', 'S', 'B', 'T', 'A']
  | .addlt => ['A', 'D', 'D', 'L', 'T']
  | .mullt => ['M', 'U', 'L', 'L', 'T']
  | .addmt => ['A', 'D', 'D', 'M', 'T']
  | .mulmt => ['M', 'U', 'L', 'M', 'T']
  | .reserved15 => ['R', 'E', 'S', 'E', 'R', 'V', 'E', 'D', '1', '5']

/-- The sixteen operations in the order of their codes (R63). -/
def allOps : List Op :=
  [.fbits, .fsign, .fexpf, .fexpv, .fmanf, .fmanv, .bitlen, .isovf, .lsbt, .msbt, .lsbta, .addlt, .mullt, .addmt,
   .mulmt, .reserved15]

/-- The operation a mnemonic names. -/
def opOfMnemonic (t : Text) : Option Op := allOps.find? fun o => mnemonic o == t

/-- A hexadecimal digit's value: the number below sixteen that is printed as this character; both letter cases
(log 13). -/
def hexDigit (c : Char) : Option Nat :=
  (List.range 16).find? fun v => [Nat.digitChar v, (Nat.digitChar v).toUpper].contains c

/-- A text without the blanks at its two ends. -/
def trimBlanks (t : Text) : Text := ((t.dropWhile (· == ' ')).reverse.dropWhile (· == ' ')).reverse

/-- A text cut at every comma; always at least one part. -/
def splitCommas : Text → List Text
  | [] => [[]]
  | c :: cs =>
    if c = ',' then [] :: splitCommas cs
    else
      match splitCommas cs with
      | [] => [[c]]
      | p :: ps => (c :: p) :: ps

/-- A back reference or a decimal numeral. -/
def decimalField (t : Text) : Except AsmError Arg :=
  match t with
  | '%' :: k =>
    match numeral 10 decimalDigit k with
    | some v => .ok (.ref v)
    | none => .error .badField
  | _ =>
    match numeral 10 decimalDigit t with
    | some v => .ok (.num v)
    | none => .error .badField

/-- The field `opa` or `opb`: decimal, `0x` hexadecimal, `%K`, or a floating-point literal `f:…` (R68). -/
def operandField (t : Text) : Except AsmError Arg :=
  match t with
  | 'f' :: ':' :: l =>
    match floatLiteral l with
    | some d => .ok (.dbl d)
    | none => .error .badFloatLiteral
  | '0' :: 'x' :: h =>
    match numeral 16 hexDigit h with
    | some v => .ok (.num v)
    | none => .error .badField
  | _ => decimalField t

/-- A line with an operand `opa` alone, `n` left out (R68). -/
def lineA (o : Op) (a : Text) : Except AsmError Line :=
  match operandField a with
  | .ok a => .ok { op := o, n := none, opa := some a, opb := none }
  | .error e => .error e

/-- A line with `n` and `opa` (R68). -/
def lineNA (o : Op) (n a : Text) : Except AsmError Line :=
  match decimalField n, operandField a with
  | .ok n, .ok a => .ok { op := o, n := some n, opa := some a, opb := none }
  | .error e, _ => .error e
  | _, .error e => .error e

/-- A line with all three fields (R68). -/
def lineNAB (o : Op) (n a b : Text) : Except AsmError Line :=
  match lineNA o n a, operandField b with
  | .ok l, .ok b => .ok { l with opb := some b }
  | .error e, _ => .error e
  | _, .error e => .error e

/-- The fields of a line by their number, in the template's order `n, opa, opb` (R68; log 13): one field is `opa` and
needs an operation that ignores `n`; an operation that reads `opb` needs all three. -/
def lineOfFields (o : Op) (fields : List Text) : Except AsmError Line :=
  match fields with
  | [[]] => if o.reads.opa then .error .badFieldCount else .ok { op := o, n := none, opa := none, opb := none }
  | [a] => if o.reads.n then .error .badFieldCount else lineA o a
  | [n, a] => if o.reads.opb then .error .badFieldCount else lineNA o n a
  | [n, a, b] => lineNAB o n a b
  | _ => .error .badFieldCount

/-- One written request (R68). -/
def parseLine (t : Text) : Except AsmError Line :=
  let t := trimBlanks t
  match opOfMnemonic (t.takeWhile (· != ' ')) with
  | none => .error .unknownMnemonic
  | some o => lineOfFields o ((splitCommas (t.dropWhile (· != ' '))).map trimBlanks)

/-- One line of a script, `tK: MNEMONIC …`, the `k`-th (R69). DESIGN CHOICE (log 22): R69 has the requester's steps
between transactions written as plain comments and gives them no syntax, so a text script holds transaction lines only,
and a comment or an empty line is answered with `badLabel`. -/
def parseScriptLine (k : Nat) (t : Text) : Except AsmError Line :=
  match trimBlanks t with
  | 't' :: rest =>
    if numeral 10 decimalDigit (rest.takeWhile (· != ':')) = some k then parseLine ((rest.dropWhile (· != ':')).drop 1)
    else .error .badLabel
  | _ => .error .badLabel

/-- A written script from its `k`-th line on (R69). -/
def parseScriptFrom : Nat → List Text → Except AsmError (List Line)
  | _, [] => .ok []
  | k, t :: ts =>
    match parseScriptLine k t, parseScriptFrom (k + 1) ts with
    | .ok l, .ok ls => .ok (l :: ls)
    | .error e, _ => .error e
    | _, .error e => .error e

/-- A written script; its lines are numbered from 1 (R69). -/
def parseScript (ts : List Text) : Except AsmError (List Line) := parseScriptFrom 1 ts

/-- The request a single written line stands for, before any other transaction (R68). -/
def assemble (t : Text) : Option Request :=
  match parseLine t with
  | .ok l =>
    match Line.request [] l with
    | .next r => some r
    | .fault _ => none
    | .refused _ => none
  | .error _ => none

end Sys2Proof.Machine
end

