-- ==== Sys2Proof/Machine/HostText.lean ====
section
/-! DEFINITION. The requester's text functions (43_host_rendering.md R135 to R139; 00_scope.md R9). They are pure
functions beside the block: no opcode reaches them. Strings are lists of characters. -/

namespace Sys2Proof.Machine

/-- `str_k`: the `k` characters of a `k`-bit vector, most significant bit first (R9). -/
def str {k : Nat} (v : BitVec k) : Text := (List.range k).map fun i => if v.getMsbD i then '1' else '0'

/-- The unsigned integer a binary string spells, most significant bit first (R9, R138). -/
def spell (t : Text) : Nat := t.foldl (fun acc c => 2 * acc + (if c = '1' then 1 else 0)) 0

/-- `bits`, the inverse of `str_k` (R9). -/
def bits (t : Text) : BitVec t.length := BitVec.ofNat t.length (spell t)

/-- The binary string of a positive integer, without a leading zero (R100, R102). -/
def binaryString (v : Nat) : Text := str (BitVec.ofNat (bitlen v) v)

/-- `dec(z)`: the shortest decimal numeral, with `-` for a negative value and no `+` (R135). -/
def dec (z : Int) : Text :=
  if z < 0 then '-' :: Nat.toDigits 10 z.natAbs else Nat.toDigits 10 z.natAbs

/-- A string with every trailing `0` removed (R137). -/
def trimZeros (t : Text) : Text := (t.reverse.dropWhile (· == '0')).reverse

/-- `splitRender(f)` (R136), under a value of `SIGN_MODE`. -/
def splitRender (mode : SignMode) (f : Operand) : Text :=
  dec ((signBit mode f).toNat : Int) ++ [',', ' '] ++ str (exponentField f) ++ [',', ' '] ++ str (mantissaField f)

/-- `scientificRender(f)` (R137), under a value of `SIGN_MODE`. -/
def scientificRender (mode : SignMode) (f : Operand) : Text :=
  (if signBit mode f = 1#1 then ['-', '1'] else ['1']) ++ ['.'] ++ trimZeros (str (mantissaField f)) ++
    (if exponentValue f = 0 then [] else [' ', 'x', ' ', '2', '^'] ++ dec (exponentValue f))

/-- The binary-string validator and converter (R138): `FormatError` on a character other than `0` and `1`, the empty
string refused (log 12). -/
def binToUint (t : Text) : Host.Outcome Nat Fault Refusal :=
  if t = [] then .refused .emptyString
  else if t.all (fun c => c == '0' || c == '1') then .next (spell t)
  else .fault .formatError

/-- An integer as the requester presents it on `opa` or `opb` (R21, R139): one the port cannot carry is refused. -/
def presentInteger (z : Int) : Host.Outcome Operand Fault Refusal :=
  if 0 ≤ z ∧ z < 2 ^ 64 then .next (BitVec.ofNat 64 z.toNat) else .refused (.cannotBePresented z)

/-- A value the document's functions return (R67). -/
inductive DocValue where
  | binaryText (t : Text)
  | unsigned (z : Nat)
  | signed (z : Int)
  | boolean (p : Bool)
deriving DecidableEq, Repr

/-- The document's return value that `res` holds for an operation (R67). The reserved code returns none. -/
def documentValue (o : Op) (res : Result) : Option DocValue :=
  match o with
  | .fbits => some (.binaryText (str (res.extractLsb' 0 64)))
  | .fexpf => some (.binaryText (str (res.extractLsb' 0 11)))
  | .fmanf => some (.binaryText (str (res.extractLsb' 0 52)))
  | .fexpv => some (.signed res.toInt)
  | .isovf => some (.boolean (res.getLsbD 0))
  | .fsign | .fmanv | .bitlen | .lsbt | .msbt | .lsbta | .addlt | .mullt | .addmt | .mulmt => some (.unsigned res.toNat)
  | .reserved15 => none

end Sys2Proof.Machine
end

