-- ==== Sys2Proof/Safety.lean ====
section
/-! DEFINITION. What counts as a safe run, and the words the claims use for what an instruction hands to its checks. -/

namespace Sys2Proof.Machine

/-- The output ports hold the response to the request on the input ports, so that a further step changes nothing
(10_state.md R31, R44). -/
def State.Settled (s : State) : Prop := step s = .next s

/-- A step that answers, keeps the request on the input ports, and leaves the outputs settled (R31, R70, R180). -/
def SafeStep (s : State) : Prop := ∃ t, step s = .next t ∧ t.req = s.req ∧ t.Settled

/-- The next state, the one piece of an outcome that carries a response. -/
def responseOf : StepResult → Option Response
  | .next t => some t.rsp
  | .fault _ => none
  | .refused _ => none

end Sys2Proof.Machine

namespace Sys2Proof

/-- The value an instruction hands to `bitlen`, where it hands one (R151). -/
def Instr.checkedValue : Instr → Option Nat
  | .fbits _ | .fsign _ | .fexpf _ | .fexpv _ | .fmanf _ | .fmanv _ => none
  | .bitlen a | .isovf _ a | .lsbt _ a | .msbt _ a | .lsbta _ a => some a.toNat
  | .addlt _ a b | .addmt _ a b => some (a.toNat + b.toNat)
  | .mullt _ a b | .mulmt _ a b => some (a.toNat * b.toNat)
  | .reserved15 => none

/-- The width of a truncating instruction (R110, R151). -/
def Instr.truncationWidth : Instr → Option Nat
  | .fbits _ | .fsign _ | .fexpf _ | .fexpv _ | .fmanf _ | .fmanv _ => none
  | .bitlen _ | .isovf _ _ => none
  | .lsbt n _ | .msbt n _ | .lsbta n _ => some n.toNat
  | .addlt n _ _ | .addmt n _ _ | .mullt n _ _ | .mulmt n _ _ => some n.toNat
  | .reserved15 => none

end Sys2Proof
end

