-- ==== Sys2Proof/Certificates/Slice0/Obligations.lean ====
section
/-! DEFINITION. The statements for the provers. Each docstring names the rule of spec/ it formalises. -/

open Sys2Proof Sys2Proof.Machine

/-! ### Encoding and dispatch -/

/-- R70: a step is the operation of the request on the input ports, whether the request is read field by field or as
the one number of R60; and `withFetchWord` presents exactly the request whose number is the word, so that the next step
runs what the decoder reads from it. The table words' numbering and that presentation are the model's (log 5, log 6);
that the outputs keep the earlier response until the step is its choice (log 21). -/
def Obligations.StepRunsTheDecodedRequest : Prop :=
  (∀ s : State, step s = exec (decode s.req) s) ∧
  (∀ (s : State) (i : Instr), decodeNumber s.req.pack.toNat = .ok i → step s = exec i s) ∧
  ∀ (s : State) (nbits w : Nat) (i : Instr), decodeTableWord nbits w = some i →
    (s.withFetchWord nbits w).rsp = s.rsp ∧
    (s.withFetchWord nbits w).req.pack.toNat = w % 2 ^ nbits ∧
    step (s.withFetchWord nbits w) = exec i (s.withFetchWord nbits w)

/-- R70: the sixteen arms of the dispatch with the fields each takes, and exactly one response for every request. -/
def Obligations.DispatchFollowsTheOperationCode : Prop :=
  (∀ r : Request,
    (r.cmd.extractLsb' 0 4 = 0#4 → decode r = .fbits r.opa) ∧
    (r.cmd.extractLsb' 0 4 = 1#4 → decode r = .fsign r.opa) ∧
    (r.cmd.extractLsb' 0 4 = 2#4 → decode r = .fexpf r.opa) ∧
    (r.cmd.extractLsb' 0 4 = 3#4 → decode r = .fexpv r.opa) ∧
    (r.cmd.extractLsb' 0 4 = 4#4 → decode r = .fmanf r.opa) ∧
    (r.cmd.extractLsb' 0 4 = 5#4 → decode r = .fmanv r.opa) ∧
    (r.cmd.extractLsb' 0 4 = 6#4 → decode r = .bitlen r.opa) ∧
    (r.cmd.extractLsb' 0 4 = 7#4 → decode r = .isovf (r.cmd.extractLsb' 4 8) r.opa) ∧
    (r.cmd.extractLsb' 0 4 = 8#4 → decode r = .lsbt (r.cmd.extractLsb' 4 8) r.opa) ∧
    (r.cmd.extractLsb' 0 4 = 9#4 → decode r = .msbt (r.cmd.extractLsb' 4 8) r.opa) ∧
    (r.cmd.extractLsb' 0 4 = 10#4 → decode r = .lsbta (r.cmd.extractLsb' 4 8) r.opa) ∧
    (r.cmd.extractLsb' 0 4 = 11#4 → decode r = .addlt (r.cmd.extractLsb' 4 8) r.opa r.opb) ∧
    (r.cmd.extractLsb' 0 4 = 12#4 → decode r = .mullt (r.cmd.extractLsb' 4 8) r.opa r.opb) ∧
    (r.cmd.extractLsb' 0 4 = 13#4 → decode r = .addmt (r.cmd.extractLsb' 4 8) r.opa r.opb) ∧
    (r.cmd.extractLsb' 0 4 = 14#4 → decode r = .mulmt (r.cmd.extractLsb' 4 8) r.opa r.opb) ∧
    (r.cmd.extractLsb' 0 4 = 15#4 → decode r = .reserved15)) ∧
  ∀ s : State, ∃! x : Response, step s = .next (s.answer x)

/-- R63: a request selects the row whose match equals `cmd AND mask`; the rows are disjoint and cover all 4096
command words. -/
def Obligations.OpcodeRowsPartitionTheCommandWords : Prop :=
  (∀ r : Request,
    (r.cmd &&& 0x00F#12 = 0x000#12 ↔ (decode r).op = .fbits) ∧
    (r.cmd &&& 0x00F#12 = 0x001#12 ↔ (decode r).op = .fsign) ∧
    (r.cmd &&& 0x00F#12 = 0x002#12 ↔ (decode r).op = .fexpf) ∧
    (r.cmd &&& 0x00F#12 = 0x003#12 ↔ (decode r).op = .fexpv) ∧
    (r.cmd &&& 0x00F#12 = 0x004#12 ↔ (decode r).op = .fmanf) ∧
    (r.cmd &&& 0x00F#12 = 0x005#12 ↔ (decode r).op = .fmanv) ∧
    (r.cmd &&& 0x00F#12 = 0x006#12 ↔ (decode r).op = .bitlen) ∧
    (r.cmd &&& 0x00F#12 = 0x007#12 ↔ (decode r).op = .isovf) ∧
    (r.cmd &&& 0x00F#12 = 0x008#12 ↔ (decode r).op = .lsbt) ∧
    (r.cmd &&& 0x00F#12 = 0x009#12 ↔ (decode r).op = .msbt) ∧
    (r.cmd &&& 0x00F#12 = 0x00A#12 ↔ (decode r).op = .lsbta) ∧
    (r.cmd &&& 0x00F#12 = 0x00B#12 ↔ (decode r).op = .addlt) ∧
    (r.cmd &&& 0x00F#12 = 0x00C#12 ↔ (decode r).op = .mullt) ∧
    (r.cmd &&& 0x00F#12 = 0x00D#12 ↔ (decode r).op = .addmt) ∧
    (r.cmd &&& 0x00F#12 = 0x00E#12 ↔ (decode r).op = .mulmt) ∧
    (r.cmd &&& 0x00F#12 = 0x00F#12 ↔ (decode r).op = .reserved15)) ∧
  (∀ r : Request, ∀ row ∈ opcodeTable, r.cmd &&& row.mask = row.pattern ↔ (decode r).op = row.op) ∧
  ∀ c : Command, ∃! row : OpcodeRow, row ∈ opcodeTable ∧ c &&& row.mask = row.pattern

/-- R61: `cmd = {n, op}` and `uint(cmd) = 16*uint(n) + uint(op)`, with `op = cmd[3:0]` and `n = cmd[11:4]`. -/
def Obligations.CommandWordIsWidthThenOperation : Prop :=
  (∀ r : Request, r.op = r.cmd.extractLsb' 0 4 ∧ r.n = r.cmd.extractLsb' 4 8 ∧ r.cmd = r.n ++ r.op ∧
    r.cmd.toNat = 16 * r.n.toNat + r.op.toNat) ∧
  ∀ (n : WidthField) (o : Op), (commandWord n o).toNat = 16 * n.toNat + o.code.toNat

/-- R60: the request as the 140-bit number `{opb, opa, cmd}`: no bit is lost. That a wider number is no request and is
rejected is DEDUCED from R60 by the model (log 6), not the rule's own sentence. -/
def Obligations.RequestIsOneNumberOf140Bits : Prop :=
  (∀ r : Request, Request.unpack r.pack = r ∧
    r.pack.toNat = r.opb.toNat * 2 ^ 76 + r.opa.toNat * 2 ^ 12 + r.cmd.toNat ∧
    decodeNumber r.pack.toNat = .ok (decode r)) ∧
  (∀ w : BitVec 140, (Request.unpack w).pack = w) ∧
  ∀ w : Nat, (decodeNumber w = .error .widerThanRequest ↔ 2 ^ 140 ≤ w)

/-- Headline: decoding an encoded instruction gives it back, with every operand at every value its field admits, also
through the 140-bit number. -/
def Obligations.DecodeOfEncodeIsTheInstruction : Prop :=
  ∀ i : Instr, decode (encode i) = i ∧ decodeNumber (encode i).pack.toNat = .ok i

/-- R64, R68: encoding a decoded request keeps its operation and every field it reads, and writes zero in the rest. -/
def Obligations.EncodeOfDecodeKeepsTheReadFields : Prop :=
  ∀ r : Request, encode (decode r) = r.keepRead ∧ (encode (decode r)).op = r.op ∧
    ((Op.ofCode r.op).reads.n = true → (encode (decode r)).n = r.n) ∧
    ((Op.ofCode r.op).reads.opa = true → (encode (decode r)).opa = r.opa) ∧
    ((Op.ofCode r.op).reads.opb = true → (encode (decode r)).opb = r.opb)

/-- R63, 95_test_vectors.md section 2.6: words written out from the spec's encoding decode to the instruction they
stand for. -/
def Obligations.WrittenOutWordsDecode : Prop :=
  decode ⟨0b000000000001#12, 0xBF50624DD2F1A9FC#64, 0#64⟩ = .fsign 0xBF50624DD2F1A9FC#64 ∧
  decode ⟨0b000010101000#12, 0x7FD#64, 0#64⟩ = .lsbt 10#8 0x7FD#64 ∧
  decode ⟨0b000010101110#12, 0x64#64, 0x64#64⟩ = .mulmt 10#8 0x64#64 0x64#64 ∧
  decode ⟨0b100000001100#12, 0x64#64, 0x64#64⟩ = .mullt 128#8 0x64#64 0x64#64 ∧
  decode ⟨0b011111111111#12, 5#64, 7#64⟩ = .reserved15

/-! ### The machine as a whole -/

/-- R20, R153, R158: what an instruction answers is one response that no state decides, and nothing else of the state
changes: the frame of every instruction, errors included. -/
def Obligations.ExecChangesOnlyTheResponse : Prop :=
  ∀ i : Instr, ∃ x : Response, ∀ s : State,
    exec i s = .next (s.answer x) ∧ (s.answer x).rsp = x ∧ (s.answer x).req = s.req

/-- R23: the response is a function of the request alone; the earlier response and everything else of the state play
no part. -/
def Obligations.ResponseIsAFunctionOfTheRequest : Prop :=
  ∃ respond : Request → Response, ∀ s : State, step s = .next { req := s.req, rsp := respond s.req }

/-- R64: the table of what each operation reads, and a field not marked has no effect on the response. -/
def Obligations.IgnoredFieldsHaveNoEffect : Prop :=
  (∀ o : Op, o.reads =
    if o ∈ [Op.fbits, .fsign, .fexpf, .fexpv, .fmanf, .fmanv, .bitlen] then ⟨true, false, false⟩
    else if o ∈ [Op.isovf, .lsbt, .msbt, .lsbta] then ⟨true, false, true⟩
    else if o ∈ [Op.addlt, .mullt, .addmt, .mulmt] then ⟨true, true, true⟩
    else ⟨false, false, false⟩) ∧
  ∀ (s s' : State), s.req.op = s'.req.op →
    ((Op.ofCode s.req.op).reads.n = true → s.req.n = s'.req.n) →
    ((Op.ofCode s.req.op).reads.opa = true → s.req.opa = s'.req.opa) →
    ((Op.ofCode s.req.op).reads.opb = true → s.req.opb = s'.req.opb) →
    ∃ x : Response, step s = .next (s.answer x) ∧ step s' = .next (s'.answer x)

/-- R44: presenting the same request again gives the same response and changes nothing, however often. -/
def Obligations.RepeatingARequestChangesNothing : Prop :=
  ∀ (k : Nat) (s : State), Host.Core.run core (k + 1) s = step s

/-- R31: from every state, a step answers, keeps the request, and leaves the outputs holding the response to it; the
outputs stay so under every further step. -/
def Obligations.EveryStepLeavesTheOutputsSettled : Prop :=
  (∀ s : State, SafeStep s) ∧
  (∀ s t : State, step s = .next t → t.Settled) ∧
  ∀ (s : State) (r : Request), ∃ t, transact s r = .next t ∧ t.req = r ∧ t.Settled

/-- R33: after a reset the outputs are the response to the request the inputs hold. That this request is all zeros is
the model's choice (log 2). -/
def Obligations.ResetOutputsAnswerTheInputs : Prop :=
  State.reset.Settled ∧ State.reset.rsp.err = 0 ∧ State.reset.rsp.cause = 0

/-- R47: a list of transactions gets the responses of its requests one by one, whatever came before and in whatever
order they stand. -/
def Obligations.TransactionsAreIndependent : Prop :=
  ∃ respond : Request → Response,
    (∀ (s : State) (r : Request), transact s r = .next { req := r, rsp := respond r }) ∧
    ∀ (rs : List Request) (s : State), ∃ t : State, serve rs s = .next (rs.map respond, t)

/-! ### The response -/

/-- R22: `err` and `cause` on the ports; `err = 0` implies `cause = 0`, `err = 1` implies `cause ≠ 0`; and what a
consumer takes from the ports is the response, whatever `res` carries beside an error. -/
def Obligations.OutputPortsCarryTheResponse : Prop :=
  ∀ (r : Response) (u : Result),
    (r.drive u).read = some r ∧
    ((r.drive u).err = 0 → (r.drive u).cause = 0) ∧
    ((r.drive u).err = 1 → (r.drive u).cause ≠ 0) ∧
    (∀ v, r = .result v → (r.drive u).res = v ∧ (r.drive u).err = 0) ∧
    ∀ c, r = .error c → (r.drive u).err = 1 ∧ r.res? = none

/-- R151, R152: the codes of the causes, exactly when each is raised, and that each operation raises only its listed
causes and raises every one of them on some operands. -/
def Obligations.CausesAreRaisedExactlyWhenTheyApply : Prop :=
  (Cause.domainValue.code = 1 ∧ Cause.domainWidth.code = 2 ∧ Cause.illegalOp.code = 3) ∧
  (Cause.domainValue.kind = .domainError ∧ Cause.domainWidth.kind = .domainError ∧
    Cause.illegalOp.kind = .illegalOperation) ∧
  (∀ v, (Response.result v).cause = 0) ∧
  (∀ (i : Instr) (s : State),
    (exec i s = .next (s.answer (.error .domainValue)) ↔ i.checkedValue = some 0) ∧
    (exec i s = .next (s.answer (.error .domainWidth)) ↔
      (∃ v, i.checkedValue = some v ∧ v ≠ 0) ∧ i.truncationWidth = some 0) ∧
    (exec i s = .next (s.answer (.error .illegalOp)) ↔ i = .reserved15)) ∧
  (∀ (i : Instr) (s : State) (c : Cause), exec i s = .next (s.answer (.error c)) → c ∈ causes i.op) ∧
  ∀ (o : Op) (c : Cause), c ∈ causes o →
    ∃ i : Instr, i.op = o ∧ ∀ s, exec i s = .next (s.answer (.error c))

/-- R154: ILLEGAL_OP before every operand, then DOMAIN_VALUE before DOMAIN_WIDTH. -/
def Obligations.CausePriority : Prop :=
  (∀ s : State, s.req.op = 15 → step s = .next (s.answer (.error .illegalOp))) ∧
  (∀ (i : Instr) (s : State), i.checkedValue = some 0 → i.truncationWidth = some 0 →
    exec i s = .next (s.answer (.error .domainValue))) ∧
  ∀ (i : Instr) (s : State) (v : Nat), i.checkedValue = some v → v ≠ 0 → i.truncationWidth = some 0 →
    exec i s = .next (s.answer (.error .domainWidth))

/-- R67: the range of every operation's result, and the value of the document's return type that it stands for: a
binary string of the rule's length, an unsigned integer, the one signed integer, or a boolean. -/
def Obligations.ResultsAreInRange : Prop :=
  ∀ (i : Instr) (s : State) (v : Result), exec i s = .next (s.answer (.result v)) →
    match i.op with
    | .fbits => v.toNat < 2 ^ 64 ∧ documentValue .fbits v = some (.binaryText (str (v.extractLsb' 0 64)))
    | .fsign => v.toNat ≤ 1 ∧ documentValue .fsign v = some (.unsigned v.toNat)
    | .fexpf => v.toNat ≤ 2047 ∧ documentValue .fexpf v = some (.binaryText (str (v.extractLsb' 0 11)))
    | .fexpv => (-1023 ≤ v.toInt ∧ v.toInt ≤ 1024) ∧ documentValue .fexpv v = some (.signed v.toInt)
    | .fmanf => v.toNat < 2 ^ 52 ∧ documentValue .fmanf v = some (.binaryText (str (v.extractLsb' 0 52)))
    | .fmanv => (2 ^ 52 ≤ v.toNat ∧ v.toNat < 2 ^ 53) ∧ documentValue .fmanv v = some (.unsigned v.toNat)
    | .bitlen => (1 ≤ v.toNat ∧ v.toNat ≤ 64) ∧ documentValue .bitlen v = some (.unsigned v.toNat)
    | .isovf => v.toNat ≤ 1 ∧ documentValue .isovf v = some (.boolean (v.toNat == 1))
    | .lsbt => (1 ≤ v.toNat ∧ v.toNat < 2 ^ 64) ∧ documentValue .lsbt v = some (.unsigned v.toNat)
    | .msbt => v.toNat < 2 ^ 64 ∧ documentValue .msbt v = some (.unsigned v.toNat)
    | .lsbta => (1 ≤ v.toNat ∧ v.toNat < 2 ^ 64) ∧ documentValue .lsbta v = some (.unsigned v.toNat)
    | .addlt => (1 ≤ v.toNat ∧ v.toNat ≤ 2 ^ 65 - 2) ∧ documentValue .addlt v = some (.unsigned v.toNat)
    | .mullt => (1 ≤ v.toNat ∧ v.toNat ≤ (2 ^ 64 - 1) ^ 2) ∧ documentValue .mullt v = some (.unsigned v.toNat)
    | .addmt => v.toNat ≤ 2 ^ 65 - 2 ∧ documentValue .addmt v = some (.unsigned v.toNat)
    | .mulmt => v.toNat ≤ (2 ^ 64 - 1) ^ 2 ∧ documentValue .mulmt v = some (.unsigned v.toNat)
    | .reserved15 => False

/-! ### BitDecoder -/

/-- R81: `FBITS` returns the pattern, for every pattern, and the document's value is its 64 characters. -/
def Obligations.FbitsReturnsThePattern : Prop :=
  ∀ (f : Operand) (s : State),
    exec (.fbits f) s = .next (s.answer (.result (f.setWidth 128))) ∧
    documentValue .fbits (f.setWidth 128) = some (.binaryText (str f))

/-- R82, R177: `FSIGN` returns the stored sign bit, as this hardware is built. -/
def Obligations.FsignReturnsTheStoredSignBit : Prop :=
  ∀ (f : Operand) (s : State),
    exec (.fsign f) s = .next (s.answer (.result ((f.extractLsb' 63 1).setWidth 128)))

/-- R82: the alternative `LT_ZERO`, and that the two modes differ exactly on negative zero and on the NaN patterns
with the sign bit set. What a NaN is, is PRESUMED (log 8). -/
def Obligations.LtZeroSignDiffersOnlyOnNegativeZeroAndNaN : Prop :=
  (∀ (f : Operand) (s : State), execFsignIn .ltZero f s = .next (s.answer (.result
    (if f.getLsbD 63 = true ∧ ¬((f.extractLsb' 52 11).toNat = 2047 ∧ (f.extractLsb' 0 52).toNat ≠ 0) ∧
        ¬((f.extractLsb' 0 63).toNat = 0) then 1 else 0)))) ∧
  ∀ f : Operand, signBit .ieeeBit f ≠ signBit .ltZero f ↔
    f = 0x8000000000000000#64 ∨
      (f.getLsbD 63 = true ∧ (f.extractLsb' 52 11).toNat = 2047 ∧ (f.extractLsb' 0 52).toNat ≠ 0)

/-- R83: `FEXPF` returns the raw biased exponent, characters 1 to 11 of the pattern's string. -/
def Obligations.FexpfReturnsTheExponentField : Prop :=
  ∀ (f : Operand) (s : State),
    exec (.fexpf f) s = .next (s.answer (.result ((f.extractLsb' 52 11).setWidth 128))) ∧
    documentValue .fexpf ((f.extractLsb' 52 11).setWidth 128) =
      some (.binaryText (((str f).drop 1).take 11))

/-- R84: `FEXPV` returns the exponent field minus 1023 as a signed 128-bit number: zero-extended where it is not
negative, `2^128` more where it is. -/
def Obligations.FexpvReturnsTheFieldMinusTheBias : Prop :=
  ∀ (f : Operand) (s : State), ∃ v : Result,
    exec (.fexpv f) s = .next (s.answer (.result v)) ∧
    v.toInt = ((f.extractLsb' 52 11).toNat : Int) - 1023 ∧
    (-1023 ≤ v.toInt ∧ v.toInt ≤ 1024) ∧
    (0 ≤ v.toInt → (v.toNat : Int) = v.toInt) ∧
    (v.toInt < 0 → (v.toNat : Int) = 2 ^ 128 + v.toInt ∧ v.extractLsb' 11 117 = BitVec.allOnes 117)

/-- R85: `FMANF` returns the raw mantissa field, characters 12 to 63 of the pattern's string. -/
def Obligations.FmanfReturnsTheMantissaField : Prop :=
  ∀ (f : Operand) (s : State),
    exec (.fmanf f) s = .next (s.answer (.result ((f.extractLsb' 0 52).setWidth 128))) ∧
    documentValue .fmanf ((f.extractLsb' 0 52).setWidth 128) = some (.binaryText ((str f).drop 12))

/-- R86: `FMANV` prepends the leading 1 for every pattern: `2^52` plus the mantissa field, in `[2^52, 2^53 - 1]`. -/
def Obligations.FmanvPrependsTheLeadingOne : Prop :=
  ∀ (f : Operand) (s : State), ∃ v : Result,
    exec (.fmanv f) s = .next (s.answer (.result v)) ∧
    v.toNat = 2 ^ 52 + (f.extractLsb' 0 52).toNat ∧ 2 ^ 52 ≤ v.toNat ∧ v.toNat ≤ 2 ^ 53 - 1

/-- R87: the three fields the block returns, concatenated, are the pattern `FBITS` returns; under `LT_ZERO` the law
fails on exactly the patterns on which the modes differ. -/
def Obligations.FieldsConcatenateToThePattern : Prop :=
  (∀ (f : Operand) (s : State), ∃ b sg e m : Result,
    exec (.fbits f) s = .next (s.answer (.result b)) ∧ exec (.fsign f) s = .next (s.answer (.result sg)) ∧
    exec (.fexpf f) s = .next (s.answer (.result e)) ∧ exec (.fmanf f) s = .next (s.answer (.result m)) ∧
    b.extractLsb' 0 64 = f ∧
    sg.extractLsb' 0 1 ++ e.extractLsb' 0 11 ++ m.extractLsb' 0 52 = f) ∧
  ∀ f : Operand, signBit .ltZero f ++ exponentField f ++ mantissaField f = f ↔
    signBit .ltZero f = signBit .ieeeBit f

/-- R41, R42: the bytes of the big-endian encoding onto `opa`, and where they hold the sign, the exponent bits and the
mantissa bits; a little-endian image presents its bytes in the reverse order. -/
def Obligations.BytesAreBigEndianOnOpa : Prop :=
  (∀ b : Fin 8 → Byte, ∀ i, opaByte (opaOfBigEndian b) i = b i) ∧
  (∀ f : Operand,
    opaOfBigEndian (opaByte f) = f ∧
    (∀ i : Fin 8, ∀ j : Nat, j < 8 → (opaByte f i).getLsbD j = f.getLsbD (56 - 8 * i.val + j)) ∧
    (opaByte f 0).extractLsb' 7 1 = signField f ∧
    (opaByte f 0).extractLsb' 0 7 ++ (opaByte f 1).extractLsb' 4 4 = exponentField f ∧
    (opaByte f 1).extractLsb' 0 4 ++ opaByte f 2 ++ opaByte f 3 ++ opaByte f 4 ++ opaByte f 5 ++ opaByte f 6 ++
      opaByte f 7 = mantissaField f) ∧
  ∀ (m : Fin 8 → Byte) (i : Fin 8),
    opaOfLittleEndian m = opaOfBigEndian (fun j => m j.rev) ∧
    ∀ j : Nat, j < 8 → (opaOfLittleEndian m).getLsbD (8 * i.val + j) = (m i).getLsbD j

/-! ### WidthTruncator -/

/-- R100: `bitlen(v)` is the unique `L ≥ 1` with `2^(L-1) ≤ v < 2^L`, and the rule's own values. -/
def Obligations.BitLengthIsTheUniqueBound : Prop :=
  (∀ v : Nat, 1 ≤ v → 1 ≤ bitlen v ∧ bitlen v = Nat.log 2 v + 1 ∧ 2 ^ (bitlen v - 1) ≤ v ∧ v < 2 ^ bitlen v ∧
    ∀ L : Nat, 1 ≤ L → 2 ^ (L - 1) ≤ v → v < 2 ^ L → L = bitlen v) ∧
  bitlen 1 = 1 ∧ bitlen 2 = 2 ∧ bitlen 3 = 2 ∧ bitlen 2045 = 11 ∧ bitlen 10000 = 14 ∧
  bitlen (2 ^ 64 - 1) = 64 ∧ bitlen (2 ^ 64) = 65

/-- R102: LSB truncation is the number spelled by the first `n` characters of the binary string, and drops the rest
without rounding. -/
def Obligations.LsbTruncationKeepsTheLeadingBits : Prop :=
  ∀ v n : Nat, 1 ≤ v → 1 ≤ n →
    (n < bitlen v → lsbt v n = spell ((binaryString v).take n) ∧ lsbt v n = v / 2 ^ (bitlen v - n)) ∧
    (bitlen v ≤ n → lsbt v n = v) ∧
    (binaryString v).length = bitlen v ∧ (binaryString v).head? = some '1' ∧ spell (binaryString v) = v

/-- R103: MSB truncation is the number spelled by the last `n` characters of the binary string, which is the value
modulo `2^n` in both branches. -/
def Obligations.MsbTruncationKeepsTheTrailingBits : Prop :=
  ∀ v n : Nat, 1 ≤ v → 1 ≤ n →
    (n < bitlen v → msbt v n = spell ((binaryString v).drop (bitlen v - n))) ∧
    (bitlen v ≤ n → msbt v n = v) ∧
    msbt v n = v % 2 ^ n

/-- R104: LSB truncation with approximation: the prefix `p` and the first discarded bit `d`, read off the binary
string; `p + 1` is truncated again only when the prefix was all ones, and is then `2^(n-1)`. -/
def Obligations.ApproximationRoundsOnTheFirstDiscardedBit : Prop :=
  ∀ v n : Nat, 1 ≤ v → 1 ≤ n →
    (bitlen v ≤ n → lsbta v n = v) ∧
    (n < bitlen v → (binaryString v)[n]? = some '0' → lsbta v n = lsbt v n) ∧
    (n < bitlen v → (binaryString v)[n]? = some '1' →
      lsbta v n = if lsbt v n = 2 ^ n - 1 then 2 ^ (n - 1) else lsbt v n + 1)

/-- R111, the nine laws, for `a ≥ 1` and `n ≥ 1`. -/
def Obligations.TruncationLaws : Prop :=
  ∀ a n : Nat, 1 ≤ a → 1 ≤ n →
    (bitlen a ≤ n → lsbt a n = a ∧ msbt a n = a) ∧
    (n < bitlen a → msbt a n = a % 2 ^ n) ∧
    (lsbt a n < 2 ^ n ∧ msbt a n < 2 ^ n ∧ lsbta a n < 2 ^ n) ∧
    ((n < bitlen a ↔ lsbt a n ≠ a) ∧ (n < bitlen a ↔ msbt a n ≠ a)) ∧
    (n < bitlen a → bitlen (lsbt a n) = n ∧ 2 ^ (n - 1) ≤ lsbt a n) ∧
    ((lsbt a n ≤ lsbta a n ∧ lsbta a n ≤ lsbt a n + 1) ∨ (lsbt a n = 2 ^ n - 1 ∧ lsbta a n = 2 ^ (n - 1))) ∧
    (lsbt (lsbt a n) n = lsbt a n ∧ lsbta (lsbta a n) n = lsbta a n ∧
      (msbt a n ≠ 0 → msbt (msbt a n) n = msbt a n)) ∧
    (a < 2 ^ 64 → 64 ≤ n → bitlen a ≤ 64 ∧ lsbt a n = a ∧ msbt a n = a ∧ lsbta a n = a)

/-- R111 law 3, R106, as the block answers it: `ISOVF` is 1 exactly when `BITLEN` exceeds `n`, exactly when each
truncation changes the value (law 5). -/
def Obligations.OverflowAgreesWithTruncation : Prop :=
  ∀ (n : WidthField) (a : Operand) (s : State), a ≠ 0 → n ≠ 0 → ∃ o l t m : Result,
    exec (.isovf n a) s = .next (s.answer (.result o)) ∧
    exec (.bitlen a) s = .next (s.answer (.result l)) ∧
    exec (.lsbt n a) s = .next (s.answer (.result t)) ∧
    exec (.msbt n a) s = .next (s.answer (.result m)) ∧
    (o = 1 ∨ o = 0) ∧ (o = 1 ↔ n.toNat < l.toNat) ∧ (o = 1 ↔ t.toNat ≠ a.toNat) ∧ (o = 1 ↔ m.toNat ≠ a.toNat)

/-- R105: `BITLEN` of a non-zero `a` is the number of bits of `a`; of 0 it is the error DOMAIN_VALUE. -/
def Obligations.BitlenReturnsTheBitLength : Prop :=
  ∀ (a : Operand) (s : State),
    (a = 0 → exec (.bitlen a) s = .next (s.answer (.error .domainValue))) ∧
    (a ≠ 0 → ∃ v : Result, exec (.bitlen a) s = .next (s.answer (.result v)) ∧
      1 ≤ v.toNat ∧ v.toNat ≤ 64 ∧ 2 ^ (v.toNat - 1) ≤ a.toNat ∧ a.toNat < 2 ^ v.toNat)

/-- R106: `ISOVF` of a non-zero `a` is 1 exactly when the bit length exceeds `n`, that is when `a ≥ 2^n`, also at
`n = 0`; `n ≥ 64` gives 0; of 0 it is the error DOMAIN_VALUE. -/
def Obligations.IsovfComparesTheBitLength : Prop :=
  ∀ (n : WidthField) (a : Operand) (s : State),
    (a = 0 → exec (.isovf n a) s = .next (s.answer (.error .domainValue))) ∧
    (a ≠ 0 → exec (.isovf n a) s =
      .next (s.answer (.result (if bitlen a.toNat > n.toNat then 1 else 0)))) ∧
    (a ≠ 0 → n = 0 → exec (.isovf n a) s = .next (s.answer (.result 1))) ∧
    (a ≠ 0 → 64 ≤ n.toNat → exec (.isovf n a) s = .next (s.answer (.result 0))) ∧
    (a ≠ 0 → (bitlen a.toNat > n.toNat ↔ 2 ^ n.toNat ≤ a.toNat))

/-- R107: `LSBT`, its two errors, its result, and the rule's corner cases. -/
def Obligations.LsbtTruncatesItsOperand : Prop :=
  ∀ (n : WidthField) (a : Operand) (s : State),
    (a = 0 → exec (.lsbt n a) s = .next (s.answer (.error .domainValue))) ∧
    (a ≠ 0 → n = 0 → exec (.lsbt n a) s = .next (s.answer (.error .domainWidth))) ∧
    (a ≠ 0 → n ≠ 0 → ∃ v : Result, exec (.lsbt n a) s = .next (s.answer (.result v)) ∧
      v.toNat = lsbt a.toNat n.toNat ∧ v ≠ 0 ∧
      (bitlen a.toNat ≤ n.toNat → v = a.setWidth 128) ∧
      (64 ≤ n.toNat → v = a.setWidth 128) ∧ (n = 1 → v = 1) ∧
      (n.toNat < bitlen a.toNat → bitlen v.toNat = n.toNat))

/-- R108: `MSBT`, its two errors, its result `a mod 2^n`, and when that is zero. -/
def Obligations.MsbtTruncatesItsOperand : Prop :=
  ∀ (n : WidthField) (a : Operand) (s : State),
    (a = 0 → exec (.msbt n a) s = .next (s.answer (.error .domainValue))) ∧
    (a ≠ 0 → n = 0 → exec (.msbt n a) s = .next (s.answer (.error .domainWidth))) ∧
    (a ≠ 0 → n ≠ 0 → ∃ v : Result, exec (.msbt n a) s = .next (s.answer (.result v)) ∧
      v.toNat = msbt a.toNat n.toNat ∧ v.toNat = a.toNat % 2 ^ n.toNat ∧
      (bitlen a.toNat ≤ n.toNat → v = a.setWidth 128) ∧
      (v = 0 ↔ n.toNat < bitlen a.toNat ∧ ∀ j, j < n.toNat → a.getLsbD j = false))

/-- R109: `LSBTA`, its two errors, its result, and the rule's corner cases. -/
def Obligations.LsbtaTruncatesItsOperand : Prop :=
  ∀ (n : WidthField) (a : Operand) (s : State),
    (a = 0 → exec (.lsbta n a) s = .next (s.answer (.error .domainValue))) ∧
    (a ≠ 0 → n = 0 → exec (.lsbta n a) s = .next (s.answer (.error .domainWidth))) ∧
    (a ≠ 0 → n ≠ 0 → ∃ v : Result, exec (.lsbta n a) s = .next (s.answer (.result v)) ∧
      v.toNat = lsbta a.toNat n.toNat ∧
      (bitlen a.toNat ≤ n.toNat → v = a.setWidth 128) ∧
      (n.toNat < bitlen a.toNat → a.getLsbD (bitlen a.toNat - n.toNat - 1) = false →
        v.toNat = lsbt a.toNat n.toNat) ∧
      (n.toNat < bitlen a.toNat → a.getLsbD (bitlen a.toNat - n.toNat - 1) = true →
        v.toNat = lsbt (lsbt a.toNat n.toNat + 1) n.toNat))

/-- R101: the value 0 handed to a bit-length computation is the error DOMAIN_VALUE for all nine operations, at every
width. -/
def Obligations.ZeroValueIsADomainError : Prop :=
  ∀ (n : WidthField) (b : Operand) (s : State), ∀ i ∈
    [Instr.bitlen 0, .isovf n 0, .lsbt n 0, .msbt n 0, .lsbta n 0, .addlt n 0 0, .addmt n 0 0,
     .mullt n 0 b, .mullt n b 0, .mulmt n 0 b, .mulmt n b 0],
    exec i s = .next (s.answer (.error .domainValue))

/-- R110: a width of zero is the error DOMAIN_WIDTH for the seven truncating operations with a non-zero value, and
DOMAIN_VALUE with the value 0; no other instruction answers DOMAIN_WIDTH, whatever its operands, and none of the seven
does at another width; `ISOVF` is defined at 0, and `BITLEN` ignores it. -/
def Obligations.ZeroWidthIsADomainError : Prop :=
  ∀ (a b : Operand) (s : State),
    (a ≠ 0 → ∀ i ∈ [Instr.lsbt 0 a, .msbt 0 a, .lsbta 0 a],
      exec i s = .next (s.answer (.error .domainWidth))) ∧
    (a.toNat + b.toNat ≠ 0 → ∀ i ∈ [Instr.addlt 0 a b, .addmt 0 a b],
      exec i s = .next (s.answer (.error .domainWidth))) ∧
    (a.toNat * b.toNat ≠ 0 → ∀ i ∈ [Instr.mullt 0 a b, .mulmt 0 a b],
      exec i s = .next (s.answer (.error .domainWidth))) ∧
    (∀ i ∈ [Instr.lsbt 0 0, .msbt 0 0, .lsbta 0 0, .addlt 0 0 0, .addmt 0 0 0, .mullt 0 0 b, .mulmt 0 0 b],
      exec i s = .next (s.answer (.error .domainValue))) ∧
    (∀ i : Instr, exec i s = .next (s.answer (.error .domainWidth)) →
      i.op ∈ [Op.lsbt, .msbt, .lsbta, .addlt, .mullt, .addmt, .mulmt] ∧ i.truncationWidth = some 0) ∧
    (a ≠ 0 → exec (.isovf 0 a) s = .next (s.answer (.result 1))) ∧
    ∀ n : WidthField, decode ⟨n ++ 6#4, a, b⟩ = .bitlen a

/-! ### Width-aware arithmetic -/

/-- R121: `ADDLT` keeps the top `n` bits of the exact sum. -/
def Obligations.AddltTruncatesTheExactSum : Prop :=
  ∀ (n : WidthField) (a b : Operand) (s : State),
    (a = 0 ∧ b = 0 → exec (.addlt n a b) s = .next (s.answer (.error .domainValue))) ∧
    (¬(a = 0 ∧ b = 0) → n = 0 → exec (.addlt n a b) s = .next (s.answer (.error .domainWidth))) ∧
    (¬(a = 0 ∧ b = 0) → n ≠ 0 → ∃ v : Result, exec (.addlt n a b) s = .next (s.answer (.result v)) ∧
      v.toNat = lsbt (a.toNat + b.toNat) n.toNat ∧
      (bitlen (a.toNat + b.toNat) ≤ n.toNat → v.toNat = a.toNat + b.toNat)) ∧
    exec (.addlt n a b) s = exec (.addlt n b a) s

/-- R122: `MULLT` keeps the top `n` bits of the exact product. -/
def Obligations.MulltTruncatesTheExactProduct : Prop :=
  ∀ (n : WidthField) (a b : Operand) (s : State),
    (a = 0 ∨ b = 0 → exec (.mullt n a b) s = .next (s.answer (.error .domainValue))) ∧
    (¬(a = 0 ∨ b = 0) → n = 0 → exec (.mullt n a b) s = .next (s.answer (.error .domainWidth))) ∧
    (¬(a = 0 ∨ b = 0) → n ≠ 0 → ∃ v : Result, exec (.mullt n a b) s = .next (s.answer (.result v)) ∧
      v.toNat = lsbt (a.toNat * b.toNat) n.toNat ∧
      (bitlen (a.toNat * b.toNat) ≤ n.toNat → v.toNat = a.toNat * b.toNat) ∧
      (b = 1 → v.toNat = lsbt a.toNat n.toNat)) ∧
    exec (.mullt n a b) s = exec (.mullt n b a) s

/-- R123: `ADDMT` is the exact sum modulo `2^n`; `n ≥ 65` returns the exact sum. -/
def Obligations.AddmtWrapsTheExactSum : Prop :=
  ∀ (n : WidthField) (a b : Operand) (s : State),
    (a = 0 ∧ b = 0 → exec (.addmt n a b) s = .next (s.answer (.error .domainValue))) ∧
    (¬(a = 0 ∧ b = 0) → n = 0 → exec (.addmt n a b) s = .next (s.answer (.error .domainWidth))) ∧
    (¬(a = 0 ∧ b = 0) → n ≠ 0 → ∃ v : Result, exec (.addmt n a b) s = .next (s.answer (.result v)) ∧
      v.toNat = msbt (a.toNat + b.toNat) n.toNat ∧ v.toNat = (a.toNat + b.toNat) % 2 ^ n.toNat ∧
      (65 ≤ n.toNat → v.toNat = a.toNat + b.toNat))

/-- R124: `MULMT` is the exact product modulo `2^n`; `n ≥ 128` returns the exact product; 100 times 100 at width 10
is 784 (90_conflicts.md C1). -/
def Obligations.MulmtWrapsTheExactProduct : Prop :=
  (∀ (n : WidthField) (a b : Operand) (s : State),
    (a = 0 ∨ b = 0 → exec (.mulmt n a b) s = .next (s.answer (.error .domainValue))) ∧
    (¬(a = 0 ∨ b = 0) → n = 0 → exec (.mulmt n a b) s = .next (s.answer (.error .domainWidth))) ∧
    (¬(a = 0 ∨ b = 0) → n ≠ 0 → ∃ v : Result, exec (.mulmt n a b) s = .next (s.answer (.result v)) ∧
      v.toNat = msbt (a.toNat * b.toNat) n.toNat ∧ v.toNat = a.toNat * b.toNat % 2 ^ n.toNat ∧
      (128 ≤ n.toNat → v.toNat = a.toNat * b.toNat))) ∧
  ∀ s : State, exec (.mulmt 10 100 100) s = .next (s.answer (.result 784))

/-- R120: the exact sum has at most 65 bits and the exact product at most 128, so that no truncated value loses a bit
on the way to `res`; and `ADDMT 64` is how 64-bit wrap-around is asked for. -/
def Obligations.SumsAndProductsAreExact : Prop :=
  (∀ a b : Operand,
    a.toNat + b.toNat ≤ 2 ^ 65 - 2 ∧ bitlen (a.toNat + b.toNat) ≤ 65 ∧
    a.toNat * b.toNat ≤ 2 ^ 128 - 2 ^ 65 + 1 ∧ bitlen (a.toNat * b.toNat) ≤ 128 ∧
    (∀ n : Nat, ∀ v ∈ [a.toNat + b.toNat, a.toNat * b.toNat], ∀ policy ∈ [lsbt, msbt],
      (unsignedResult (policy v n)).toNat = policy v n)) ∧
  ∀ (a b : Operand) (s : State), ¬(a = 0 ∧ b = 0) →
    exec (.addmt 64 a b) s = .next (s.answer (.result ((a + b).setWidth 128)))

/-- R126: only the sum or product is checked: one zero operand of an addition is accepted, a zero factor is not. -/
def Obligations.PreconditionsFallOnTheSumOrProduct : Prop :=
  ∀ (n : WidthField) (b : Operand) (s : State), b ≠ 0 → n ≠ 0 →
    exec (.addlt n 0 b) s = .next (s.answer (.result (unsignedResult (lsbt b.toNat n.toNat)))) ∧
    exec (.addlt n b 0) s = .next (s.answer (.result (unsignedResult (lsbt b.toNat n.toNat)))) ∧
    exec (.addmt n 0 b) s = .next (s.answer (.result (unsignedResult (msbt b.toNat n.toNat)))) ∧
    exec (.addmt n b 0) s = .next (s.answer (.result (unsignedResult (msbt b.toNat n.toNat)))) ∧
    exec (.addlt n 0 0) s = .next (s.answer (.error .domainValue)) ∧
    exec (.addmt n 0 0) s = .next (s.answer (.error .domainValue)) ∧
    ∀ i ∈ [Instr.mullt n 0 b, .mullt n b 0, .mulmt n 0 b, .mulmt n b 0],
      exec i s = .next (s.answer (.error .domainValue))

/-- R125: the four operations are commutative; MSB truncation is arithmetic modulo `2^n`; an LSB-policy result is
never zero; the LSB-policy addition is not associative and does not commute with a further truncation. -/
def Obligations.ArithmeticLaws : Prop :=
  (∀ (n : WidthField) (a b : Operand) (s : State),
    exec (.addlt n a b) s = exec (.addlt n b a) s ∧ exec (.mullt n a b) s = exec (.mullt n b a) s ∧
    exec (.addmt n a b) s = exec (.addmt n b a) s ∧ exec (.mulmt n a b) s = exec (.mulmt n b a) s) ∧
  (∀ v w n : Nat, 1 ≤ v → 1 ≤ w → 1 ≤ n →
    msbt (v + w) n = (msbt v n + msbt w n) % 2 ^ n ∧ msbt (v * w) n = msbt v n * msbt w n % 2 ^ n ∧
    lsbt v n ≠ 0) ∧
  (∃ a b c n : Nat, 1 ≤ a ∧ 1 ≤ b ∧ 1 ≤ c ∧ 1 ≤ n ∧
    lsbt (lsbt (a + b) n + c) n ≠ lsbt (a + lsbt (b + c) n) n) ∧
  ∃ a b n : Nat, 1 ≤ a ∧ 1 ≤ b ∧ 1 ≤ n ∧ lsbt (lsbt a n + lsbt b n) n ≠ lsbt (a + b) n

/-- R111 law 6, R179: an MSB-policy operation answers 0 exactly on a non-zero value whose low `n` bits are all zero,
and every single-operand check on that 0 is then the error DOMAIN_VALUE. -/
def Obligations.ZeroResultFedBackIsRefused : Prop :=
  ∀ (n : WidthField) (a b : Operand) (s : State),
    (exec (.msbt n a) s = .next (s.answer (.result 0)) ↔ a ≠ 0 ∧ n ≠ 0 ∧ 2 ^ n.toNat ∣ a.toNat) ∧
    (exec (.addmt n a b) s = .next (s.answer (.result 0)) ↔
      a.toNat + b.toNat ≠ 0 ∧ n ≠ 0 ∧ 2 ^ n.toNat ∣ a.toNat + b.toNat) ∧
    (exec (.mulmt n a b) s = .next (s.answer (.result 0)) ↔
      a.toNat * b.toNat ≠ 0 ∧ n ≠ 0 ∧ 2 ^ n.toNat ∣ a.toNat * b.toNat) ∧
    (∀ i ∈ [Instr.lsbt n a, .lsbta n a, .addlt n a b, .mullt n a b],
      exec i s ≠ .next (s.answer (.result 0))) ∧
    ∀ i ∈ [Instr.bitlen 0, .isovf n 0, .lsbt n 0, .msbt n 0, .lsbta n 0, .addmt n 0 0, .addlt n 0 0,
      .mulmt n 0 b, .mullt n 0 b], exec i s = .next (s.answer (.error .domainValue))

/-- R66: widths above 128 are legal and never truncate. -/
def Obligations.WidthsFrom128NeverTruncate : Prop :=
  ∀ (n : WidthField) (a b : Operand) (s : State), 128 ≤ n.toNat →
    (a ≠ 0 → ∀ i ∈ [Instr.lsbt n a, .msbt n a, .lsbta n a],
      exec i s = .next (s.answer (.result (a.setWidth 128)))) ∧
    (a.toNat + b.toNat ≠ 0 → ∀ i ∈ [Instr.addlt n a b, .addmt n a b],
      exec i s = .next (s.answer (.result (a.setWidth 128 + b.setWidth 128)))) ∧
    (a.toNat * b.toNat ≠ 0 → ∀ i ∈ [Instr.mullt n a b, .mulmt n a b],
      exec i s = .next (s.answer (.result (a.setWidth 128 * b.setWidth 128))))

/-- R65: the reserved code is answered with ILLEGAL_OP whatever its other fields. -/
def Obligations.ReservedCodeIsIllegal : Prop :=
  (∀ s : State, exec .reserved15 s = .next (s.answer (.error .illegalOp))) ∧
  (∀ s : State, s.req.cmd.extractLsb' 0 4 = 15#4 → step s = .next (s.answer (.error .illegalOp))) ∧
  ∀ s : State, step s = .next (s.answer (.error .illegalOp)) → s.req.cmd.extractLsb' 0 4 = 15#4

/-! ### The requester -/

/-- R9: `str_k` is a bijection onto the binary strings of length `k`, character `i` being bit `k-1-i`, and `bits` is
its inverse. -/
def Obligations.BinaryStringsAreBitVectors : Prop :=
  (∀ (k : Nat) (v : BitVec k), (str v).length = k ∧ spell (str v) = v.toNat ∧
    ∀ i, i < k → (str v)[i]? = some (if v.getLsbD (k - 1 - i) then '1' else '0')) ∧
  ∀ t : Text, (∀ c ∈ t, c = '0' ∨ c = '1') → str (bits t) = t ∧ (bits t).toNat = spell t

/-- R136: `splitRender` is the sign digit, the exponent string and the mantissa string as the block returns them,
joined by a comma and a space: 68 characters. -/
def Obligations.SplitRenderJoinsTheFields : Prop :=
  ∀ (f : Operand) (s : State), ∃ sg e m : Result,
    exec (.fsign f) s = .next (s.answer (.result sg)) ∧
    exec (.fexpf f) s = .next (s.answer (.result e)) ∧
    exec (.fmanf f) s = .next (s.answer (.result m)) ∧
    splitRender Config.signMode f =
      (if sg = 1 then ['1'] else ['0']) ++ [',', ' '] ++ str (e.extractLsb' 0 11) ++ [',', ' '] ++
        str (m.extractLsb' 0 52) ∧
    (splitRender Config.signMode f).length = 68

/-- R137: `scientificRender` from what the block returns: the sign, a point, the mantissa string less its trailing
zeros, and the exponent part unless the exponent is 0. And R135: `dec z` is a `-` exactly for a negative `z`, then
decimal digits that spell the absolute value, without a leading zero but for 0 itself. That its characters are ASCII is
PRESUMED (log 20). -/
def Obligations.ScientificRenderFollowsItsTemplate : Prop :=
  (∀ z : Int, ∃ d : Text, dec z = (if z < 0 then ['-'] else []) ++ d ∧ d ≠ [] ∧
    (∀ c ∈ d, 48 ≤ c.toNat ∧ c.toNat ≤ 57) ∧ d.foldl (fun v c => 10 * v + (c.toNat - 48)) 0 = z.natAbs ∧
    (d.head? = some '0' → d = ['0'] ∧ z = 0)) ∧
  ∀ (f : Operand) (s : State), ∃ (sg m e : Result) (t : Text) (z : Nat),
    exec (.fsign f) s = .next (s.answer (.result sg)) ∧
    exec (.fmanf f) s = .next (s.answer (.result m)) ∧
    exec (.fexpv f) s = .next (s.answer (.result e)) ∧
    str (m.extractLsb' 0 52) = t ++ List.replicate z '0' ∧ t.getLast? ≠ some '0' ∧
    scientificRender Config.signMode f =
      (if sg = 1 then ['-', '1'] else ['1']) ++ ['.'] ++ t ++
        (if e.toInt = 0 then [] else [' ', 'x', ' ', '2', '^'] ++ dec e.toInt)

/-- R138: the validator raises `FormatError` exactly on a character other than `0` and `1`, refuses the empty string,
and otherwise returns the integer the string spells, most significant bit first, leading zeros allowed. -/
def Obligations.BinToUintValidatesAndConverts : Prop :=
  (∀ t : Text, (∃ c ∈ t, c ≠ '0' ∧ c ≠ '1') ↔ binToUint t = .fault .formatError) ∧
  (∀ t : Text, t = [] ↔ binToUint t = .refused .emptyString) ∧
  (∀ t : Text, t ≠ [] → (∀ c ∈ t, c = '0' ∨ c = '1') → binToUint t = .next (bits t).toNat ∧
    binToUint ('0' :: t) = binToUint t) ∧
  ∀ (k : Nat) (v : BitVec k), 1 ≤ k → binToUint (str v) = .next v.toNat

/-- R89: the pattern a host gives a NaN value is some NaN pattern, every NaN pattern is possible, and every other
value is presented as its encoding. What a NaN pattern is, is PRESUMED (log 8). -/
def Obligations.HostNaNIsSomeNaNPattern : Prop :=
  (∀ draw : Nat, isNaN (hostPattern draw .nan) = true) ∧
  (∀ f : Operand, isNaN f = true → ∃ (sign : Bool) (k : Nat), nanPattern sign k = f) ∧
  ∀ (draw : Nat) (f : Operand), hostPattern draw (.number f) = f

/-- R21, R139: exactly the integers from 0 to `2^64 - 1` can be presented, and each as itself. -/
def Obligations.OnlyUnsigned64BitIntegersArePresented : Prop :=
  (∀ z : Int, (0 ≤ z ∧ z < 2 ^ 64) → ∃ v : Operand, presentInteger z = .next v ∧ (v.toNat : Int) = z) ∧
  ∀ z : Int, ¬(0 ≤ z ∧ z < 2 ^ 64) → presentInteger z = .refused (.cannotBePresented z)

/-- R69: what a script answers: line `K` is the transaction of the request its fields stand for after the `K - 1`
responses before it; `%K` stands for `uint(res)` of transaction `K`, and only if that transaction ended with `err = 0`
and the value fits the port. -/
def Obligations.ScriptLinesAreTransactions : Prop :=
  (∀ (done : List Response) (draw width k v : Nat),
    fieldValue done draw width (some (.ref k)) = .next v ↔
      1 ≤ k ∧ v < 2 ^ width ∧ ∃ x : Result, done[k - 1]? = some (.result x) ∧ x.toNat = v) ∧
  ∀ (ls : List Line) (s t : State) (out : List Response), runScript ls s = .next (out, t) →
    out.length = ls.length ∧
    ∀ (k : Nat) (l : Line), ls[k]? = some l →
      ∃ (r : Request) (x : Response), Line.request (out.take k) l = .next r ∧ out[k]? = some x ∧
        ∀ s' : State, transact s' r = .next { req := r, rsp := x }

/-- R68: the request of a line has the line's operation, the number a field is written as in that field, and zero in
every field left out, which is never a field the operation reads; and the rule's three written requests, with the pattern it prints for `f:1.1`. -/
def Obligations.WrittenRequestsAssemble : Prop :=
  (∀ (done : List Response) (l : Line) (r : Request), Line.request done l = .next r →
    (decode r).op = l.op ∧
    (∀ v, l.n = some (.num v) → r.n.toNat = v) ∧
    (∀ v, l.opa = some (.num v) → r.opa.toNat = v) ∧
    (∀ v, l.opb = some (.num v) → r.opb.toNat = v) ∧
    (l.n = none → r.n = 0 ∧ l.op.reads.n = false) ∧
    (l.opa = none → r.opa = 0 ∧ l.op.reads.opa = false) ∧
    (l.opb = none → r.opb = 0 ∧ l.op.reads.opb = false)) ∧
  assemble ("FSIGN f:-0.001").toList = some ⟨0x001#12, 0xBF50624DD2F1A9FC#64, 0#64⟩ ∧
  assemble ("LSBT 10, 2045").toList = some ⟨0x0A8#12, 0x7FD#64, 0#64⟩ ∧
  assemble ("MULMT 10, 100, 100").toList = some ⟨0x0AE#12, 0x64#64, 0x64#64⟩ ∧
  assemble ("FBITS f:1.1").toList = some ⟨0x000#12, 0x3FF199999999999A#64, 0#64⟩

/-- R89: a fraction whose value is exactly that of a finite binary64 number is presented as that number's encoding,
and one half, or more, of a unit above the greatest finite number as infinity. Which number a pattern stands for, and
the rounding of every other fraction, are PRESUMED (log 14). -/
def Obligations.ExactValuesArePresentedAsTheirEncodings : Prop :=
  (∀ (f : Operand) (num den : Nat), (exponentField f).toNat ≠ 2047 → 1 ≤ den →
    num * 2 ^ 1074 = binary64Units f * den → binary64Pattern (f.getLsbD 63) num den = f) ∧
  ∀ (negative : Bool) (num den : Nat), 1 ≤ den → (2 ^ 54 - 1) * 2 ^ 970 * den ≤ num →
    binary64Pattern negative num den = BitVec.ofBool negative ++ 0x7FF0000000000000#63
end

