-- ==== Sys2Proof/Laws/Encoding.lean ====
section
/-! SUPPORT. The codes of the operations, and the bits of a command word and of a packed request. -/

namespace Sys2Proof

/-- The code of an operation selects it. -/
@[simp] theorem Op.ofCode_code (o : Op) : Op.ofCode o.code = o := by
  cases o <;> rfl

/-- The operation a code selects has that code. -/
@[simp] theorem Op.code_ofCode (c : OpCode) : (Op.ofCode c).code = c := by
  revert c
  decide

/-- The bits of a concatenation of an 8-bit width and a 4-bit code. -/
theorem getLsbD_width_append_code (n : WidthField) (c : OpCode) (i : Nat) :
    (n ++ c : Command).getLsbD i = if i < 4 then c.getLsbD i else n.getLsbD (i - 4) := by
  have h := BitVec.getLsbD_append (x := n) (y := c) (i := i)
  simpa using h

/-- The low four bits of `{n, op}` are `op` (R61). -/
theorem width_append_code_op (n : WidthField) (c : OpCode) : (n ++ c : Command).extractLsb' 0 4 = c := by
  apply BitVec.eq_of_getLsbD_eq
  intro i hi
  rw [BitVec.getLsbD_extractLsb', Nat.zero_add, getLsbD_width_append_code, if_pos hi]
  simp [hi]

/-- The high eight bits of `{n, op}` are `n` (R61). -/
theorem width_append_code_n (n : WidthField) (c : OpCode) : (n ++ c : Command).extractLsb' 4 8 = n := by
  apply BitVec.eq_of_getLsbD_eq
  intro i hi
  rw [BitVec.getLsbD_extractLsb', getLsbD_width_append_code, if_neg (by omega), Nat.add_sub_cancel_left]
  simp [hi]

/-- The low four bits of a command word are the operation's code. -/
theorem commandWord_op (n : WidthField) (o : Op) : (commandWord n o).extractLsb' 0 4 = o.code :=
  width_append_code_op n o.code

/-- The high eight bits of a command word are the width. -/
theorem commandWord_n (n : WidthField) (o : Op) : (commandWord n o).extractLsb' 4 8 = n :=
  width_append_code_n n o.code

/-- The bits of the 140-bit number of a request (R60). -/
theorem Request.getLsbD_pack (r : Request) (i : Nat) :
    r.pack.getLsbD i =
      if i < 12 then r.cmd.getLsbD i else if i < 76 then r.opa.getLsbD (i - 12) else r.opb.getLsbD (i - 76) := by
  have h := BitVec.getLsbD_append (x := r.opb ++ r.opa) (y := r.cmd) (i := i)
  have h' := BitVec.getLsbD_append (x := r.opb) (y := r.opa) (i := i - 12)
  have hp : r.pack.getLsbD i = (r.opb ++ r.opa ++ r.cmd).getLsbD i := rfl
  rw [hp, h, h']
  by_cases h1 : i < 12
  · simp [h1]
  · by_cases h2 : i < 76
    · simp [h1, h2, show i - 12 < 64 by omega]
    · simp [h1, h2, show ¬ i - 12 < 64 by omega, show i - 12 - 64 = i - 76 by omega]

end Sys2Proof
end

