-- ==== Sys2Proof/Laws/State.lean ====
section
/-! SUPPORT. One lemma per field per update of the state, and what an answer determines. -/

namespace Sys2Proof.Machine

@[simp] theorem State.present_req (s : State) (r : Request) : (s.present r).req = r := rfl
@[simp] theorem State.present_rsp (s : State) (r : Request) : (s.present r).rsp = s.rsp := rfl
@[simp] theorem State.answer_req (s : State) (x : Response) : (s.answer x).req = s.req := rfl
@[simp] theorem State.answer_rsp (s : State) (x : Response) : (s.answer x).rsp = x := rfl

@[simp] theorem State.present_present (s : State) (r r' : Request) : (s.present r).present r' = s.present r' := rfl
@[simp] theorem State.answer_answer (s : State) (x y : Response) : (s.answer x).answer y = s.answer y := rfl

theorem State.answer_eq_mk (s : State) (x : Response) : s.answer x = { req := s.req, rsp := x } := rfl

@[simp] theorem State.answer_inj (s : State) (x y : Response) : s.answer x = s.answer y ↔ x = y :=
  ⟨fun h => congrArg State.rsp h, fun h => h ▸ rfl⟩

/-- Two answers at one state are equal exactly when their responses are. -/
@[simp] theorem next_answer_inj (s : State) (x y : Response) :
    (Host.Outcome.next (s.answer x) : StepResult) = .next (s.answer y) ↔ x = y := by
  constructor
  · intro h
    injection h with h
    exact (State.answer_inj s x y).mp h
  · rintro rfl
    rfl

end Sys2Proof.Machine
end

