-- ==== Sys2Proof/Laws/Ops.lean ====
section
/-! SUPPORT. What each shared operation answers, said once. -/

namespace Sys2Proof.Machine

theorem reply_eq (v : Result) (s : State) : reply v s = .next (s.answer (.result v)) := rfl

theorem raise_eq (c : Cause) (s : State) : raise c s = .next (s.answer (.error c)) := rfl

@[simp] theorem checkValue_zero (k : State → StepResult) (s : State) :
    checkValue 0 k s = .next (s.answer (.error .domainValue)) := rfl

theorem checkValue_of_ne {v : Nat} (hv : v ≠ 0) (k : State → StepResult) (s : State) : checkValue v k s = k s :=
  if_neg hv

@[simp] theorem checkWidth_zero (k : State → StepResult) (s : State) :
    checkWidth 0 k s = .next (s.answer (.error .domainWidth)) := rfl

theorem checkWidth_of_ne {n : Nat} (hn : n ≠ 0) (k : State → StepResult) (s : State) : checkWidth n k s = k s :=
  if_neg hn

/-- Everything a truncating operation can do: the value check, then the width check, then the result. -/
theorem truncating_eq (policy : Nat → Nat → Nat) (v n : Nat) (s : State) :
    truncating policy v n s = .next (s.answer
      (if v = 0 then .error .domainValue else if n = 0 then .error .domainWidth
        else .result (unsignedResult (policy v n)))) := by
  unfold truncating checkValue checkWidth
  split_ifs <;> rfl

/-- Everything a value check before a result can do. -/
theorem checkValue_reply_eq (v : Nat) (x : Result) (s : State) :
    checkValue v (reply x) s = .next (s.answer (if v = 0 then .error .domainValue else .result x)) := by
  unfold checkValue
  split_ifs <;> rfl

/-- The result of `andThen` is a next state only through one of its first part. -/
theorem andThen_eq_next {α β : Type} {o : Host.Outcome α Fault Refusal} {f : α → Host.Outcome β Fault Refusal}
    {b : β} (h : andThen o f = .next b) : ∃ a, o = .next a ∧ f a = .next b := by
  cases o with
  | next a => exact ⟨a, rfl, h⟩
  | fault r => cases h
  | refused r => cases h

@[simp] theorem andThen_next {α β : Type} (a : α) (f : α → Host.Outcome β Fault Refusal) :
    andThen (.next a) f = f a := rfl

end Sys2Proof.Machine
end

