-- ==== Sys2Proof/Laws/PerInstr.lean ====
section
/-! SUPPORT. Statements made per instruction. `OpField`: the encoding's `op` field is the instruction's own code. -/

namespace Sys2Proof.Laws.OpField

/-- The `op` field of an instruction's encoding is the code of its operation (R61, R63). -/
def Statement (i : Instr) : Prop := (encode i).op = i.op.code

theorem fbits (f : Operand) : Statement (.fbits f) := commandWord_op 0 .fbits
theorem fsign (f : Operand) : Statement (.fsign f) := commandWord_op 0 .fsign
theorem fexpf (f : Operand) : Statement (.fexpf f) := commandWord_op 0 .fexpf
theorem fexpv (f : Operand) : Statement (.fexpv f) := commandWord_op 0 .fexpv
theorem fmanf (f : Operand) : Statement (.fmanf f) := commandWord_op 0 .fmanf
theorem fmanv (f : Operand) : Statement (.fmanv f) := commandWord_op 0 .fmanv
theorem bitlen (a : Operand) : Statement (.bitlen a) := commandWord_op 0 .bitlen
theorem isovf (n : WidthField) (a : Operand) : Statement (.isovf n a) := commandWord_op n .isovf
theorem lsbt (n : WidthField) (a : Operand) : Statement (.lsbt n a) := commandWord_op n .lsbt
theorem msbt (n : WidthField) (a : Operand) : Statement (.msbt n a) := commandWord_op n .msbt
theorem lsbta (n : WidthField) (a : Operand) : Statement (.lsbta n a) := commandWord_op n .lsbta
theorem addlt (n : WidthField) (a b : Operand) : Statement (.addlt n a b) := commandWord_op n .addlt
theorem mullt (n : WidthField) (a b : Operand) : Statement (.mullt n a b) := commandWord_op n .mullt
theorem addmt (n : WidthField) (a b : Operand) : Statement (.addmt n a b) := commandWord_op n .addmt
theorem mulmt (n : WidthField) (a b : Operand) : Statement (.mulmt n a b) := commandWord_op n .mulmt
theorem reserved15 : Statement .reserved15 := commandWord_op 0 .reserved15

end Sys2Proof.Laws.OpField
end

