-- ==== Sys2Proof/Laws/Truncation.lean ====
section
/-! SUPPORT. The functions `bitlen`, `lsbt`, `msbt`, `lsbta` against powers of two. -/

namespace Sys2Proof.Machine

theorem bitlen_pos (v : Nat) : 0 < bitlen v := Nat.succ_pos _

/-- A bit length is at most `n` exactly when the value is below `2^n`. -/
theorem bitlen_le_iff {v : Nat} (hv : v ≠ 0) (n : Nat) : bitlen v ≤ n ↔ v < 2 ^ n := by
  unfold bitlen
  rw [Nat.add_one_le_iff, Nat.log2_lt hv]

theorem lt_bitlen_iff {v : Nat} (hv : v ≠ 0) (n : Nat) : n < bitlen v ↔ 2 ^ n ≤ v := by
  have h := bitlen_le_iff hv n
  omega

/-- LSB truncation never increases a value. -/
theorem lsbt_le (v n : Nat) : lsbt v n ≤ v := by
  unfold lsbt
  split_ifs
  · exact Nat.div_le_self _ _
  · exact le_rfl

/-- MSB truncation never increases a value. -/
theorem msbt_le (v n : Nat) : msbt v n ≤ v := by
  unfold msbt
  split_ifs
  · exact Nat.mod_le _ _
  · exact le_rfl

/-- Both branches of MSB truncation are the value modulo `2^n` (R103). -/
theorem msbt_eq_mod {v : Nat} (hv : v ≠ 0) (n : Nat) : msbt v n = v % 2 ^ n := by
  unfold msbt
  split_ifs with h
  · rfl
  · exact (Nat.mod_eq_of_lt ((bitlen_le_iff hv n).mp (Nat.le_of_not_lt h))).symm

end Sys2Proof.Machine
end

