-- ==== Sys2Proof/Tests/Slice0.lean ====
section
/-! SUPPORT. The model's own tests. Expected values are those of spec/95_test_vectors.md and of the rules' examples,
never the model's own answers; each comment names the section. -/

namespace Sys2Proof.Machine.Tests

/-- One transaction on the three port values, from the state after reset. -/
def respond (cmd : Command) (opa opb : Operand) : Option Response :=
  responseOf (step (State.reset.present ⟨cmd, opa, opb⟩))

/-- A result as a number. -/
def ok (z : Nat) : Option Response := some (.result (BitVec.ofNat 128 z))

/-- An error. -/
def err (c : Cause) : Option Response := some (.error c)

/-! ### Decoding: words written out from R61 and R63, one for every constructor -/

theorem test_decode_fbits : decode ⟨0b000000000000#12, 5, 6⟩ = .fbits 5 := by decide
theorem test_decode_fsign : decode ⟨0b000000000001#12, 5, 6⟩ = .fsign 5 := by decide
theorem test_decode_fexpf : decode ⟨0b111111110010#12, 5, 6⟩ = .fexpf 5 := by decide
theorem test_decode_fexpv : decode ⟨0b000000000011#12, 5, 6⟩ = .fexpv 5 := by decide
theorem test_decode_fmanf : decode ⟨0b000000000100#12, 5, 6⟩ = .fmanf 5 := by decide
theorem test_decode_fmanv : decode ⟨0b000001110101#12, 5, 6⟩ = .fmanv 5 := by decide
theorem test_decode_bitlen : decode ⟨0b110010000110#12, 5, 6⟩ = .bitlen 5 := by decide
theorem test_decode_isovf : decode ⟨0b010000000111#12, 5, 6⟩ = .isovf 64 5 := by decide
theorem test_decode_lsbt : decode ⟨0b000010101000#12, 5, 6⟩ = .lsbt 10 5 := by decide
theorem test_decode_msbt : decode ⟨0b000010101001#12, 5, 6⟩ = .msbt 10 5 := by decide
theorem test_decode_lsbta : decode ⟨0b000110001010#12, 5, 6⟩ = .lsbta 24 5 := by decide
theorem test_decode_addlt : decode ⟨0b000010101011#12, 5, 6⟩ = .addlt 10 5 6 := by decide
theorem test_decode_mullt : decode ⟨0b100000001100#12, 5, 6⟩ = .mullt 128 5 6 := by decide
theorem test_decode_addmt : decode ⟨0b000010101101#12, 5, 6⟩ = .addmt 10 5 6 := by decide
theorem test_decode_mulmt : decode ⟨0b000000011110#12, 5, 6⟩ = .mulmt 1 5 6 := by decide
theorem test_decode_reserved15 : decode ⟨0b011111111111#12, 5, 6⟩ = .reserved15 := by decide

/-- R60: `cmd` in bits 11:0, `opa` in bits 75:12, `opb` in bits 139:76. -/
theorem test_decode_packed_number :
    decodeTableWord 140 (0x0AE + 0x64 * 2 ^ 12 + 0x65 * 2 ^ 76) = some (.mulmt 10 0x64 0x65) := by decide
/-- R60: more than 140 bits are no request. -/
theorem test_decode_rejects_wider : decodeTableWord 141 (2 ^ 140) = none := by decide
/-- R68: `LSBT 10, 2045` encodes as `cmd = 0x0A8`, `opa = 0x7FD`, `opb = 0`. -/
theorem test_encode_lsbt : encode (.lsbt 10 2045) = ⟨0x0A8, 0x7FD, 0⟩ := by decide
/-- R68: ignored fields are encoded as zero. -/
theorem test_encode_fsign : encode (.fsign 0xBF50624DD2F1A9FC) = ⟨0x001, 0xBF50624DD2F1A9FC, 0⟩ := by decide
/-- R63: no two rows of the opcode map overlap. -/
theorem test_opcode_rows_disjoint :
    opcodeTable.Pairwise (fun r r' => r.pattern &&& (r.mask &&& r'.mask) ≠ r'.pattern &&& (r.mask &&& r'.mask)) := by
  decide
/-- 95_test_vectors.md section 2.6: the next step runs the word as the first instruction after reset. -/
theorem test_fetch_word : responseOf (step (State.reset.withFetchWord 16 0x00F)) = err .illegalOp := by decide

/-! ### Operations: 95_test_vectors.md sections 1, 2 and 3 -/

/-- S1. -/
theorem test_fbits : respond 0x000 0x3FF199999999999A 0 = ok 0x3FF199999999999A := by decide
/-- Section 2.2: negative zero under `IEEE_BIT`. -/
theorem test_fsign_negative_zero : respond 0x001 0x8000000000000000 0 = ok 1 := by decide
/-- Section 2.2: negative zero and a NaN with the sign bit set, under `LT_ZERO`. -/
theorem test_fsign_lt_zero : signBit .ltZero 0x8000000000000000 = 0 ∧ signBit .ltZero 0xFFF0000000000001 = 0 ∧
    signBit .ltZero 0xFFF0000000000000 = 1 ∧ signBit .ltZero 0x8000000000000001 = 1 := by decide
/-- Section 2.1: ignored fields do not matter. -/
theorem test_fexpf : respond 0xFF2 0x3FF199999999999A 0xFFFFFFFFFFFFFFFF = ok 0x3FF := by decide
/-- S2. -/
theorem test_fexpv_negative : respond 0x003 0xBF50624DD2F1A9FC 0 = ok 0xFFFFFFFFFFFFFFFFFFFFFFFFFFFFFFF6 := by decide
/-- Section 2.1: infinity. -/
theorem test_fexpv_infinity : respond 0x003 0x7FF0000000000000 0 = ok 0x400 := by decide
/-- Section 2.1. -/
theorem test_fmanf : respond 0x004 0xFEDCBA9876543210 0 = ok 0xCBA9876543210 := by decide
/-- Section 2.1: positive zero gets the leading 1 too. -/
theorem test_fmanv_zero : respond 0x075 0 5 = ok 0x10000000000000 := by decide
/-- Section 2.3. -/
theorem test_bitlen : respond 0xC86 0x7FD 0xFFFFFFFFFFFFFFFF = ok 11 := by decide
/-- Section 2.5. -/
theorem test_bitlen_zero : respond 0x006 0 7 = err .domainValue := by decide
/-- Section 2.3: 64 bits against 63 and 64. -/
theorem test_isovf : respond 0x3F7 0xFFFFFFFFFFFFFFFF 0 = ok 1 ∧ respond 0x407 0xFFFFFFFFFFFFFFFF 0 = ok 0 := by decide
/-- Section 2.5: defined at width 0. -/
theorem test_isovf_width_zero : respond 0x007 5 0 = ok 1 := by decide
/-- S3. -/
theorem test_lsbt : respond 0x0A8 0x7FD 0 = ok 0x3FE := by decide
/-- Section 2.5: both checks fail, the value check first. -/
theorem test_lsbt_priority : respond 0x008 0 0 = err .domainValue ∧ respond 0x008 5 0 = err .domainWidth := by decide
/-- S4. -/
theorem test_msbt : respond 0x0A9 0x7FD 0 = ok 0x3FD := by decide
/-- Section 2.5: a zero result is legal. -/
theorem test_msbt_zero_result : respond 0x0A9 0x400 0 = ok 0 := by decide
/-- Section 2.3: the all-ones carry. -/
theorem test_lsbta_carry : respond 0x0AA 2047 0 = ok 512 := by decide
/-- S6, and section 2.3 where the first discarded bit is 0. -/
theorem test_lsbta : respond 0x0AA 0x7FD 0 = ok 0x3FF ∧ respond 0x0AA 2046 0 = ok 1023 := by decide
/-- Section 2.4: the carry lengthens the sum. -/
theorem test_addlt : respond 0x0AB 1023 1 = ok 512 := by decide
/-- Section 2.4: 65 bits. -/
theorem test_addlt_65_bits :
    respond 0x41B 0xFFFFFFFFFFFFFFFF 0xFFFFFFFFFFFFFFFF = ok 0x1FFFFFFFFFFFFFFFE := by decide
/-- Section 2.4: 128 bits, and the top 64 of them. -/
theorem test_mullt : respond 0x80C 0xFFFFFFFFFFFFFFFF 0xFFFFFFFFFFFFFFFF = ok 0xFFFFFFFFFFFFFFFE0000000000000001 ∧
    respond 0x40C 0xFFFFFFFFFFFFFFFF 0xFFFFFFFFFFFFFFFF = ok 0xFFFFFFFFFFFFFFFE := by decide
/-- Section 2.4: a zero factor. -/
theorem test_mullt_zero : respond 0x00C 0 5 = err .domainValue := by decide
/-- Section 2.4: wraps to zero. -/
theorem test_addmt_wrap : respond 0x0AD 1023 1 = ok 0 := by decide
/-- Program 2, t5 and t4: one zero operand is accepted, two are not. -/
theorem test_addmt_zero_operand : respond 0x0AD 0 5 = ok 5 ∧ respond 0x0AD 0 0 = err .domainValue := by decide
/-- S5 as corrected by 90_conflicts.md C1. -/
theorem test_mulmt : respond 0x0AE 0x64 0x64 = ok 784 := by decide
/-- Section 2.4: 64-bit wrap-around. -/
theorem test_mulmt_wrap : respond 0x40E 0xFFFFFFFFFFFFFFFF 0xFFFFFFFFFFFFFFFF = ok 1 := by decide
/-- Section 2.5: all fields ones. -/
theorem test_reserved15 : respond 0xFFF 0xFFFFFFFFFFFFFFFF 0xFFFFFFFFFFFFFFFF = err .illegalOp := by decide

/-! ### Requester: 95_test_vectors.md sections 2.7, 2.8 and 3 -/

/-- Section 2.8. -/
theorem test_byte_order : opaByte 0x3FF199999999999A 0 = 0x3F ∧ opaByte 0x3FF199999999999A 1 = 0xF1 ∧
    opaOfLittleEndian (![0x9A, 0x99, 0x99, 0x99, 0x99, 0x99, 0xF1, 0x3F]) = 0x3FF199999999999A := by decide
/-- Section 2.7. -/
theorem test_split_render : splitRender .ieeeBit 0xBF50624DD2F1A9FC =
    ("1, 01111110101, 0000011000100100110111010010111100011010100111111100").toList := by decide
/-- Section 2.7: -0.001. -/
theorem test_scientific_render : scientificRender .ieeeBit 0xBF50624DD2F1A9FC =
    ("-1.00000110001001001101110100101111000110101001111111 x 2^-10").toList := by decide
/-- Section 2.7: the empty trimmed mantissa, exponent 0, and negative zero in both modes. -/
theorem test_scientific_render_corners : scientificRender .ieeeBit 0x3FF0000000000000 = ("1.").toList ∧
    scientificRender .ieeeBit 0x8000000000000000 = ("-1. x 2^-1023").toList ∧
    scientificRender .ltZero 0x8000000000000000 = ("1. x 2^-1023").toList ∧
    scientificRender .ieeeBit 0x7FF0000000000000 = ("1. x 2^1024").toList := by decide
/-- Section 2.7. -/
theorem test_bin_to_uint : binToUint ("11111111101").toList = .next 2045 := rfl
/-- Section 2.7: a prefix is an invalid character. -/
theorem test_bin_to_uint_invalid : binToUint ("0b11").toList = .fault .formatError := rfl
/-- R138: the empty string is refused. -/
theorem test_bin_to_uint_empty : binToUint [] = .refused .emptyString := rfl
/-- R21: the greatest integer the port carries, and the first it does not. -/
theorem test_present_integer : presentInteger (2 ^ 64 - 1) = .next 0xFFFFFFFFFFFFFFFF ∧
    presentInteger (2 ^ 64) = .refused (.cannotBePresented (2 ^ 64)) := ⟨rfl, rfl⟩
/-- Program 2, t1 and t2, as written lines: 784, then 1568 mod 1024. -/
theorem test_script : (match parseScript [("t1: MULMT 10, 100, 100").toList, ("t2: ADDMT 10, %1, %1").toList] with
    | .ok ls => (match runScript ls State.reset with
      | .next out => out.1
      | _ => [])
    | .error _ => []) = [.result 0x310, .result 0x220] := by decide
/-- Section 2.7's patterns of 0.5, -1.5 and 3.0, as literals (R68). -/
theorem test_float_literal : floatLiteral ("0.5").toList = some (.number 0x3FE0000000000000) ∧
    floatLiteral ("-1.5").toList = some (.number 0xBFF8000000000000) ∧
    floatLiteral ("3.0").toList = some (.number 0x4008000000000000) ∧ floatLiteral ("1.").toList = none := by decide
/-- Section 2.7's patterns of negative zero and infinity. -/
theorem test_float_literal_special : floatLiteral ("-0.0").toList = some (.number 0x8000000000000000) ∧
    floatLiteral ("inf").toList = some (.number 0x7FF0000000000000) ∧ floatLiteral ("nan").toList = some .nan := by
  decide
/-- R22: an errored response beside any value of `res`. -/
theorem test_drive : (Response.error .domainWidth).drive 7 = ⟨7, 1, 2⟩ ∧ (Response.result 7).drive 0 = ⟨7, 0, 0⟩ := by
  decide

/-! ### WellFormed: an ill-formed term for each check -/

/-- A read field left out (R68). -/
theorem test_wf_missing_n : Line.wf ⟨.lsbt, none, some (.num 5), none⟩ = false := by decide
theorem test_wf_missing_opa : Line.wf ⟨.fbits, none, none, none⟩ = false := by decide
theorem test_wf_missing_opb : Line.wf ⟨.addlt, some (.num 1), some (.num 5), none⟩ = false := by decide
/-- A width above 255, an operand of 65 bits (V6). -/
theorem test_wf_wide_n : Line.wf ⟨.lsbt, some (.num 256), some (.num 5), none⟩ = false := by decide
theorem test_wf_wide_operand : Line.wf ⟨.bitlen, none, some (.num (2 ^ 64)), none⟩ = false := by decide
/-- A double on the width field; transaction 0. -/
theorem test_wf_double_width : Line.wf ⟨.lsbt, some (.dbl .nan), some (.num 5), none⟩ = false := by decide
theorem test_wf_reference_zero : Line.wf ⟨.bitlen, none, some (.ref 0), none⟩ = false := by decide
/-- A NaN pattern as a value other than a NaN (R89). -/
theorem test_wf_nan_number : HostDouble.wf (.number 0x7FF8000000000000) = false := by decide
/-- A reference to the line itself (R69). -/
theorem test_wf_forward_reference : scriptWf [⟨.bitlen, none, some (.ref 1), none⟩] = false := by decide
/-- And a well-formed line with every field at its greatest value. -/
theorem test_wf_accepts :
    Line.wf ⟨.mulmt, some (.num 255), some (.num (2 ^ 64 - 1)), some (.num (2 ^ 64 - 1))⟩ = true := by decide

/-! ### Witnesses: operands that meet the hypotheses of each statement, clause by clause -/

/-- `StepRunsTheDecodedRequest`. -/
theorem witness_decodes_number : decodeNumber (State.reset.req.pack.toNat) = .ok (.fbits 0) ∧
    decodeTableWord 8 0x0F = some .reserved15 := ⟨rfl, rfl⟩
/-- `DispatchFollowsTheOperationCode`: a request for every code. -/
theorem witness_every_code : ∀ c : OpCode, ∃ r : Request, r.cmd.extractLsb' 0 4 = c := by
  intro c
  exact ⟨⟨c.setWidth 12, 0, 0⟩, by revert c; decide⟩
/-- `OpcodeRowsPartitionTheCommandWords`: a row, the last. -/
theorem witness_row : (⟨.reserved15, 0x00F, 0x00F⟩ : OpcodeRow) ∈ opcodeTable := by decide
/-- `RequestIsOneNumberOf140Bits`, `EncodeOfDecodeKeepsTheReadFields`: every field read, at its greatest value. -/
theorem witness_all_fields_read :
    (Op.ofCode (Request.op ⟨0xFFE, 0xFFFFFFFFFFFFFFFF, 0xFFFFFFFFFFFFFFFF⟩)).reads = ⟨true, true, true⟩ := by decide
/-- `IgnoredFieldsHaveNoEffect`: two states that differ in every ignored field of `BITLEN`. -/
theorem witness_ignored_fields : ∃ s s' : State, s.req.op = s'.req.op ∧ s.req.n ≠ s'.req.n ∧ s.req.opb ≠ s'.req.opb ∧
    s.req.opa = s'.req.opa ∧ (Op.ofCode s.req.op).reads = ⟨true, false, false⟩ :=
  ⟨State.reset.present ⟨0x006, 0x7FD, 0⟩, State.reset.present ⟨0xC86, 0x7FD, 9⟩, by decide⟩
/-- `EveryStepLeavesTheOutputsSettled`: a state whose outputs are not yet settled. -/
theorem witness_unsettled : responseOf (step (State.reset.present ⟨0x001, 0x8000000000000000, 0⟩)) = ok 1 ∧
    (State.reset.present ⟨0x001, 0x8000000000000000, 0⟩).rsp = .result 0 := by decide
/-- `OutputPortsCarryTheResponse`: both cases of the response. -/
theorem witness_responses : (Response.result 0).err = 0 ∧ (Response.error .domainValue).err = 1 := by decide
/-- `CausesAreRaisedExactlyWhenTheyApply`, `CausePriority`: the three causes. -/
theorem witness_causes : responseOf (exec (.addlt 0 0 0) State.reset) = err .domainValue ∧
    responseOf (exec (.addlt 0 1 0) State.reset) = err .domainWidth ∧
    responseOf (exec .reserved15 State.reset) = err .illegalOp ∧
    (Instr.addlt 0 0 0).checkedValue = some 0 ∧ (Instr.addlt 0 0 0).truncationWidth = some 0 ∧
    (Instr.addlt 0 1 0).checkedValue = some 1 := by decide
/-- `ResultsAreInRange`: a result of every operation that has one. -/
theorem witness_results : ([Instr.fbits 0, .fsign 0, .fexpf 0, .fexpv 0, .fmanf 0, .fmanv 0, .bitlen 1, .isovf 0 1,
    .lsbt 1 1, .msbt 1 2, .lsbta 1 3, .addlt 1 1 0, .mullt 1 1 1, .addmt 1 1 1, .mulmt 1 2 1].map
      fun i => responseOf (exec i State.reset)) =
    [0, 0, 0, 2 ^ 128 - 1023, 0, 2 ^ 52, 1, 1, 1, 0, 1, 1, 1, 0, 0].map ok := by decide
/-- `FexpvReturnsTheFieldMinusTheBias`: both signs, at the ends of the range. -/
theorem witness_fexpv : responseOf (exec (.fexpv 0) State.reset) = ok 0xFFFFFFFFFFFFFFFFFFFFFFFFFFFFFC01 ∧
    responseOf (exec (.fexpv 0x7FF0000000000000) State.reset) = ok 1024 := by decide
/-- `ScientificRenderFollowsItsTemplate`: numerals of both signs, at the ends of the exponent's range, and 0 (R135). -/
theorem witness_dec : dec (-1023) = ['-', '1', '0', '2', '3'] ∧ dec 1024 = ['1', '0', '2', '4'] ∧ dec 0 = ['0'] := by
  decide
/-- `BytesAreBigEndianOnOpa`: the last bit of a byte. -/
theorem witness_byte_bit : (7 : Nat) < 8 ∧ (opaByte 0x8000000000000000 0).getLsbD 7 = true := by decide
/-- `BitLengthIsTheUniqueBound`, at 1. -/
theorem witness_bitlen : (1 : Nat) ≤ 1 ∧ 2 ^ (1 - 1) ≤ 1 ∧ 1 < 2 ^ 1 := by decide
/-- `LsbTruncationKeepsTheLeadingBits`, `MsbTruncationKeepsTheTrailingBits`, `TruncationLaws`: one bit too long, and
just fitting. -/
theorem witness_truncation : 10 < bitlen 2045 ∧ bitlen 2045 ≤ 11 ∧ lsbt 2045 10 = 1022 ∧ msbt 2045 10 = 1021 ∧
    msbt 2045 10 ≠ 0 ∧ lsbt 2045 11 = 2045 ∧ (2045 : Nat) < 2 ^ 64 := by decide
/-- `ApproximationRoundsOnTheFirstDiscardedBit`: nothing discarded, a discarded 0, a discarded 1, and the carry. -/
theorem witness_approximation : bitlen 1023 ≤ 10 ∧ (binaryString 2046)[10]? = some '0' ∧
    (binaryString 2045)[10]? = some '1' ∧ lsbta 2045 10 = 1023 ∧ (binaryString 2047)[10]? = some '1' ∧
    lsbta 2047 10 = 512 := by decide
/-- `BitlenReturnsTheBitLength`, `IsovfComparesTheBitLength`: 0, a non-zero operand, width 0 and width 64. -/
theorem witness_bitlen_isovf : responseOf (exec (.bitlen 0) State.reset) = err .domainValue ∧
    responseOf (exec (.bitlen 0xFFFFFFFFFFFFFFFF) State.reset) = ok 64 ∧
    responseOf (exec (.isovf 10 0) State.reset) = err .domainValue ∧
    responseOf (exec (.isovf 0 1) State.reset) = ok 1 ∧
    responseOf (exec (.isovf 64 0xFFFFFFFFFFFFFFFF) State.reset) = ok 0 := by decide
/-- `LsbtTruncatesItsOperand`, `OverflowAgreesWithTruncation`: every clause. -/
theorem witness_lsbt : responseOf (exec (.lsbt 10 0) State.reset) = err .domainValue ∧
    responseOf (exec (.lsbt 0 5) State.reset) = err .domainWidth ∧
    responseOf (exec (.lsbt 11 2045) State.reset) = ok 2045 ∧
    responseOf (exec (.lsbt 64 0xFFFFFFFFFFFFFFFF) State.reset) = ok 0xFFFFFFFFFFFFFFFF ∧
    responseOf (exec (.lsbt 1 0xFFFFFFFFFFFFFFFF) State.reset) = ok 1 ∧
    responseOf (exec (.lsbt 63 0xFFFFFFFFFFFFFFFF) State.reset) = ok 0x7FFFFFFFFFFFFFFF := by decide
/-- `MsbtTruncatesItsOperand`, `ZeroResultFedBackIsRefused`: every clause. -/
theorem witness_msbt : responseOf (exec (.msbt 10 0) State.reset) = err .domainValue ∧
    responseOf (exec (.msbt 0 5) State.reset) = err .domainWidth ∧
    responseOf (exec (.msbt 10 1023) State.reset) = ok 1023 ∧
    responseOf (exec (.msbt 63 0x8000000000000000) State.reset) = ok 0 ∧
    responseOf (exec (.addmt 1 1 1) State.reset) = ok 0 ∧
    responseOf (exec (.mulmt 10 32 32) State.reset) = ok 0 := by decide
/-- `LsbtaTruncatesItsOperand`: every clause. -/
theorem witness_lsbta : responseOf (exec (.lsbta 10 0) State.reset) = err .domainValue ∧
    responseOf (exec (.lsbta 0 5) State.reset) = err .domainWidth ∧
    responseOf (exec (.lsbta 10 1023) State.reset) = ok 1023 ∧
    responseOf (exec (.lsbta 2 6) State.reset) = ok 3 ∧
    responseOf (exec (.lsbta 2 5) State.reset) = ok 3 ∧
    responseOf (exec (.lsbta 1 3) State.reset) = ok 1 := by decide
/-- `ZeroWidthIsADomainError`: a sum and a product that are not zero. -/
theorem witness_zero_width : (1 : Operand) ≠ 0 ∧ (1 : Operand).toNat + (0 : Operand).toNat ≠ 0 ∧
    (1 : Operand).toNat * (1 : Operand).toNat ≠ 0 ∧
    responseOf (exec (.mulmt 0 1 1) State.reset) = err .domainWidth := by decide
/-- `AddltTruncatesTheExactSum`, `AddmtWrapsTheExactSum`: every clause. -/
theorem witness_add : responseOf (exec (.addlt 10 0 0) State.reset) = err .domainValue ∧
    responseOf (exec (.addlt 0 3 5) State.reset) = err .domainWidth ∧
    responseOf (exec (.addlt 10 1000 1045) State.reset) = ok 1022 ∧
    responseOf (exec (.addlt 65 0xFFFFFFFFFFFFFFFF 0xFFFFFFFFFFFFFFFF) State.reset) = ok (2 ^ 65 - 2) ∧
    responseOf (exec (.addmt 10 0 0) State.reset) = err .domainValue ∧
    responseOf (exec (.addmt 0 0 5) State.reset) = err .domainWidth ∧
    responseOf (exec (.addmt 65 0xFFFFFFFFFFFFFFFF 0xFFFFFFFFFFFFFFFF) State.reset) = ok (2 ^ 65 - 2) := by decide
/-- `MulltTruncatesTheExactProduct`, `MulmtWrapsTheExactProduct`: every clause. -/
theorem witness_mul : responseOf (exec (.mullt 10 7 0) State.reset) = err .domainValue ∧
    responseOf (exec (.mullt 0 3 5) State.reset) = err .domainWidth ∧
    responseOf (exec (.mullt 14 100 100) State.reset) = ok 10000 ∧
    responseOf (exec (.mullt 10 2045 1) State.reset) = ok 1022 ∧
    responseOf (exec (.mulmt 10 7 0) State.reset) = err .domainValue ∧
    responseOf (exec (.mulmt 0 3 5) State.reset) = err .domainWidth ∧
    responseOf (exec (.mulmt 128 0xFFFFFFFFFFFFFFFF 0xFFFFFFFFFFFFFFFF) State.reset) =
      ok 0xFFFFFFFFFFFFFFFE0000000000000001 := by decide
/-- `SumsAndProductsAreExact`, `PreconditionsFallOnTheSumOrProduct`, `ArithmeticLaws`, `WidthsFrom128NeverTruncate`. -/
theorem witness_arith : responseOf (exec (.addmt 64 0x8000000000000000 0x8000000000000000) State.reset) = ok 0 ∧
    responseOf (exec (.addlt 2 0 5) State.reset) = ok 2 ∧ msbt (1 + 1) 1 = 0 ∧ lsbt 1 1 ≠ 0 ∧
    responseOf (exec (.mullt 128 0xFFFFFFFFFFFFFFFF 1) State.reset) = ok 0xFFFFFFFFFFFFFFFF := by decide
/-- `ReservedCodeIsIllegal`. -/
theorem witness_reserved : (0xFFF#12).extractLsb' 0 4 = 15#4 ∧ respond 0xFFF 0 0 = err .illegalOp := by decide
/-- `BinaryStringsAreBitVectors`, `BinToUintValidatesAndConverts`: a binary string with a leading zero. -/
theorem witness_binary_string : (∀ c ∈ ['0', '1'], c = '0' ∨ c = '1') ∧ spell ['0', '1'] = 1 ∧
    (∃ c ∈ ['1', '2'], c ≠ '0' ∧ c ≠ '1') := ⟨by simp, rfl, '2', by simp, by decide, by decide⟩
/-- `HostNaNIsSomeNaNPattern`: the least NaN payload and the pattern of all ones. -/
theorem witness_nan : isNaN 0x7FF0000000000001 = true ∧ isNaN 0xFFFFFFFFFFFFFFFF = true ∧
    nanPattern false 0 = 0x7FF0000000000001 ∧ nanPattern true (2 ^ 52 - 2) = 0xFFFFFFFFFFFFFFFF := by decide
/-- `ExactValuesArePresentedAsTheirEncodings`: zero, and a fraction that is too large. -/
theorem witness_exact : binary64Units 0x8000000000000000 = 0 ∧ 0 * 2 ^ 1074 = 0 * 1 ∧
    (2 ^ 54 - 1) * 2 ^ 970 * 1 ≤ 2 ^ 54 * 2 ^ 970 :=
  ⟨by decide, Nat.zero_mul _, by rw [mul_one]; exact Nat.mul_le_mul_right _ (by norm_num)⟩
/-- And the number 1. -/
theorem witness_exact_one : 1 * 2 ^ 1074 = binary64Units 0x3FF0000000000000 * 1 := by
  have h1 : (exponentField 0x3FF0000000000000).toNat = 1023 := by decide
  have h2 : (mantissaValue 0x3FF0000000000000).toNat = 2 ^ 52 := by decide
  rw [binary64Units, h1, h2, if_neg (by decide), one_mul, mul_one, ← pow_add]
/-- `OnlyUnsigned64BitIntegersArePresented`: the ends of the range and the first integers outside it. -/
theorem witness_integers : ((0 : Int) ≤ 0 ∧ (0 : Int) < 2 ^ 64) ∧ ¬((0 : Int) ≤ -1) ∧ ¬((2 : Int) ^ 64 < 2 ^ 64) := by
  decide
/-- `ScriptLinesAreTransactions`: a back reference used, one to an error, and one that does not fit `n`. -/
theorem witness_back_reference : fieldValue [.result 784] 0 64 (some (.ref 1)) = .next 784 ∧
    fieldValue [.error .domainValue] 0 64 (some (.ref 1)) = .refused (.backReference 1) ∧
    fieldValue [.result 784] 0 8 (some (.ref 1)) = .refused (.tooWideForPort 1) := ⟨rfl, rfl, rfl⟩
/-- `WrittenRequestsAssemble`: a line with every ignored field left out. -/
theorem witness_left_out : Line.request [] ⟨.reserved15, none, none, none⟩ = .next ⟨0x00F, 0, 0⟩ := rfl
/-- And one with a numeral in every field, at the ends of their ranges. -/
theorem witness_numerals : Line.request [] ⟨.mulmt, some (.num 255), some (.num (2 ^ 64 - 1)), some (.num 0)⟩ =
    .next ⟨0xFFE, 0xFFFFFFFFFFFFFFFF, 0⟩ := rfl
/-- R68: digits of a hexadecimal numeral, and characters that are none. -/
theorem test_hex_digit : hexDigit 'F' = some 15 ∧ hexDigit 'a' = some 10 ∧ hexDigit '9' = some 9 ∧ hexDigit 'g' = none ∧
    decimalDigit '9' = some 9 ∧ decimalDigit 'a' = none := by decide

end Sys2Proof.Machine.Tests
end

section
/-! The binary strings of the requester (R9): the last character of `str_k` is the lowest bit, so that a string is built
up from the left together with its number. -/

namespace Sys2Proof.Machine

/-- `str_k v` has `k` characters (R9). -/
@[simp] theorem length_str {k : Nat} (v : BitVec k) : (str v).length = k := by simp [str]

/-- Character `i` of `str_k v` is bit `k - 1 - i` of `v` (R9). -/
theorem getElem?_str {k : Nat} (v : BitVec k) {i : Nat} (hi : i < k) :
    (str v)[i]? = some (if v.getLsbD (k - 1 - i) then '1' else '0') := by
  simp [str, hi, BitVec.getMsbD_eq_getLsbD]

/-- The last character of a string is the lowest bit of its vector. -/
theorem str_concat {k : Nat} (x : BitVec k) (b : Bool) :
    str (x.concat b) = str x ++ [if b then '1' else '0'] := by
  have lowest : (x.concat b).getMsbD k = b := by simp [BitVec.getMsbD_concat]
  rw [str, List.range_succ, List.map_append, List.map_singleton, lowest, str]
  congr 1
  refine List.map_congr_left fun i hi => ?_
  rw [BitVec.getMsbD_concat, if_pos (List.mem_range.mp hi)]

/-- A further character on the right doubles the number a string spells and adds its digit. -/
theorem spell_append_singleton (t : Text) (c : Char) :
    spell (t ++ [c]) = 2 * spell t + (if c = '1' then 1 else 0) := by
  simp [spell]

/-- The string of a vector spells the vector's number. -/
@[simp] theorem spell_str {k : Nat} (v : BitVec k) : spell (str v) = v.toNat := by
  induction v using BitVec.concat_induction with
  | nil => rfl
  | concat x b ih =>
    rw [str_concat, spell_append_singleton, ih, BitVec.toNat_concat]
    cases b <;> simp [Nat.mul_comm]

/-- `str_k` reaches every binary string. -/
theorem exists_str_eq (t : Text) (ht : ∀ c ∈ t, c = '0' ∨ c = '1') : ∃ (k : Nat) (v : BitVec k), str v = t := by
  induction t using List.reverseRecOn with
  | nil => exact ⟨0, 0#0, rfl⟩
  | append_singleton t c ih =>
    obtain ⟨k, x, rfl⟩ := ih fun d hd => ht d (List.mem_append_left _ hd)
    have hc : c = '0' ∨ c = '1' := ht c (by simp)
    refine ⟨k + 1, x.concat (c = '1'), ?_⟩
    rw [str_concat]
    rcases hc with rfl | rfl <;> rfl

/-- The number of a vector's string fits the string's length, so `bits` keeps it. -/
theorem toNat_bits_str {k : Nat} (v : BitVec k) : (bits (str v)).toNat = v.toNat := by
  simp [bits]

/-- Vectors of one length and one number have one string. -/
theorem str_congr {k m : Nat} {v : BitVec k} {w : BitVec m} (hk : k = m) (h : v.toNat = w.toNat) : str v = str w := by
  subst hk
  rw [BitVec.eq_of_toNat_eq h]

/-- `str_k` after `bits` gives the string of a vector back. -/
theorem str_bits_str {k : Nat} (v : BitVec k) : str (bits (str v)) = str v :=
  str_congr (length_str v) (toNat_bits_str v)

/-- Settles O52: `str_k` has its characters and its number by `getElem?_str` and `spell_str`; every binary string is
some vector's string, and `bits` of that string has the vector's length and number. -/
theorem binaryStringsAreBitVectors : Obligations.BinaryStringsAreBitVectors := by
  refine ⟨fun k v => ⟨length_str v, spell_str v, fun i hi => getElem?_str v hi⟩, fun t ht => ?_⟩
  obtain ⟨k, v, rfl⟩ := exists_str_eq t ht
  exact ⟨str_bits_str v, (toNat_bits_str v).trans (spell_str v).symm⟩

end Sys2Proof.Machine
end

section
/-! The response of an instruction, apart from any state: `exec` and `step` answer it on the output ports and change
nothing else (R20, R23, R153). -/

namespace Sys2Proof.Machine

/-- The response of a value check before a result (R101). -/
def checkedResponse (v : Nat) (x : Result) : Response :=
  if v = 0 then .error .domainValue else .result x

/-- The response of a truncating operation: the checks in R154's order, then the policy. -/
def truncatedResponse (policy : Nat → Nat → Nat) (v n : Nat) : Response :=
  if v = 0 then .error .domainValue
  else if n = 0 then .error .domainWidth
  else .result (unsignedResult (policy v n))

/-- What a value check before a result answers. -/
theorem checkValue_eq_checkedResponse (v : Nat) (x : Result) (s : State) :
    checkValue v (reply x) s = .next (s.answer (checkedResponse v x)) :=
  checkValue_reply_eq v x s

/-- What a truncating operation answers. -/
theorem truncating_eq_truncatedResponse (policy : Nat → Nat → Nat) (v n : Nat) (s : State) :
    truncating policy v n s = .next (s.answer (truncatedResponse policy v n)) :=
  truncating_eq policy v n s

/-- The response an instruction answers from every state (R23). -/
def instrResponse : Instr → Response
  | .fbits f => .result (zext128 f)
  | .fsign f => .result (zext128 (signBit Config.signMode f))
  | .fexpf f => .result (zext128 (exponentField f))
  | .fexpv f => .result (signedResult (exponentValue f))
  | .fmanf f => .result (zext128 (mantissaField f))
  | .fmanv f => .result (zext128 (mantissaValue f))
  | .bitlen a => checkedResponse a.toNat (unsignedResult (bitlen a.toNat))
  | .isovf n a => checkedResponse a.toNat (boolResult (decide (bitlen a.toNat > n.toNat)))
  | .lsbt n a => truncatedResponse lsbt a.toNat n.toNat
  | .msbt n a => truncatedResponse msbt a.toNat n.toNat
  | .lsbta n a => truncatedResponse lsbta a.toNat n.toNat
  | .addlt n a b => truncatedResponse lsbt (a.toNat + b.toNat) n.toNat
  | .mullt n a b => truncatedResponse lsbt (a.toNat * b.toNat) n.toNat
  | .addmt n a b => truncatedResponse msbt (a.toNat + b.toNat) n.toNat
  | .mulmt n a b => truncatedResponse msbt (a.toNat * b.toNat) n.toNat
  | .reserved15 => .error .illegalOp

/-- Everything an instruction can do: put its response on the output ports. -/
@[simp] theorem exec_eq (i : Instr) (s : State) : exec i s = .next (s.answer (instrResponse i)) := by
  cases i with
  | fbits f => exact reply_eq _ s
  | fsign f => exact reply_eq _ s
  | fexpf f => exact reply_eq _ s
  | fexpv f => exact reply_eq _ s
  | fmanf f => exact reply_eq _ s
  | fmanv f => exact reply_eq _ s
  | bitlen a => exact checkValue_eq_checkedResponse _ _ s
  | isovf n a => exact checkValue_eq_checkedResponse _ _ s
  | lsbt n a => exact truncating_eq_truncatedResponse _ _ _ s
  | msbt n a => exact truncating_eq_truncatedResponse _ _ _ s
  | lsbta n a => exact truncating_eq_truncatedResponse _ _ _ s
  | addlt n a b => exact truncating_eq_truncatedResponse _ _ _ s
  | mullt n a b => exact truncating_eq_truncatedResponse _ _ _ s
  | addmt n a b => exact truncating_eq_truncatedResponse _ _ _ s
  | mulmt n a b => exact truncating_eq_truncatedResponse _ _ _ s
  | reserved15 => exact raise_eq _ s

/-- Everything a step can do: answer the request on the input ports. -/
@[simp] theorem step_eq (s : State) : step s = .next (s.answer (instrResponse (decode s.req))) :=
  exec_eq (decode s.req) s

/-- A transaction answers the request it presents, and the state before it plays no part (R23). -/
@[simp] theorem transact_eq (s : State) (r : Request) :
    transact s r = .next { req := r, rsp := instrResponse (decode r) } :=
  step_eq (s.present r)

/-- The outputs are settled exactly when they hold the response to the request on the inputs. -/
theorem State.settled_iff (s : State) : s.Settled ↔ s.rsp = instrResponse (decode s.req) := by
  have self : s.answer s.rsp = s := rfl
  calc s.Settled
    _ ↔ (.next (s.answer (instrResponse (decode s.req))) : StepResult) = .next (s.answer s.rsp) := by
        rw [Settled, step_eq, self]
    _ ↔ s.rsp = instrResponse (decode s.req) := (next_answer_inj s _ _).trans eq_comm

/-- The state a step leaves is settled. -/
theorem State.settled_answer_response (s : State) : (s.answer (instrResponse (decode s.req))).Settled :=
  (settled_iff _).mpr rfl

/-- Every state a step leaves keeps the request and is settled. -/
theorem step_keeps_req_and_settles {s t : State} (h : step s = .next t) : t.req = s.req ∧ t.Settled := by
  rw [step_eq] at h
  injection h with ht
  subst ht
  exact ⟨rfl, s.settled_answer_response⟩

/-- Settles O13: a step answers the response of its request (`step_eq`), which is what being settled means
(`State.settled_iff`); a transaction is a step from the presented request. -/
theorem everyStepLeavesTheOutputsSettled : Obligations.EveryStepLeavesTheOutputsSettled := by
  have answers (s : State) : SafeStep s := ⟨_, step_eq s, step_keeps_req_and_settles (step_eq s)⟩
  exact ⟨answers, fun _ _ h => (step_keeps_req_and_settles h).2, fun s r => answers (s.present r)⟩

/-- Settles O9: the one response is the instruction's own, by `exec_eq`. -/
theorem execChangesOnlyTheResponse : Obligations.ExecChangesOnlyTheResponse :=
  fun i => ⟨instrResponse i, fun s => ⟨exec_eq i s, State.answer_rsp s _, State.answer_req s _⟩⟩

/-- Settles O10: the function is the response of the decoded request, by `step_eq`. -/
theorem responseIsAFunctionOfTheRequest : Obligations.ResponseIsAFunctionOfTheRequest :=
  ⟨fun r => instrResponse (decode r), step_eq⟩

/-- Settles O14: `FBITS` of 0 answers 0, which is no error. -/
theorem resetOutputsAnswerTheInputs : Obligations.ResetOutputsAnswerTheInputs :=
  ⟨(State.settled_iff State.reset).mpr rfl, rfl, rfl⟩

end Sys2Proof.Machine
end

section
/-! The output ports of a response and the integers an operand port carries (R21, R22). -/

namespace Sys2Proof.Machine

/-- The code of a cause stands for it (R151). -/
@[simp] theorem Cause.ofCode_code (c : Cause) : Cause.ofCode c.code = some c := by
  cases c <;> rfl

/-- No cause has the code of `NONE` (R151). -/
@[simp] theorem Cause.code_ne_zero (c : Cause) : c.code ≠ 0#2 := by
  cases c <;> decide

/-- The ports of a result. -/
@[simp] theorem Response.drive_result (u v : Result) : (Response.result v).drive u = ⟨v, 0, 0⟩ := rfl

/-- The ports of an error: `res` is left unspecified. -/
@[simp] theorem Response.drive_error (u : Result) (c : Cause) : (Response.error c).drive u = ⟨u, 1, c.code⟩ := rfl

/-- A consumer takes from the ports the response that drives them. -/
@[simp] theorem Response.read_drive (u : Result) (r : Response) : (r.drive u).read = some r := by
  cases r with
  | result v => rfl
  | error c => simp [OutPorts.read]

/-- Settles O16: `Response.read_drive`, and the ports of each of the two kinds of response. -/
theorem outputPortsCarryTheResponse : Obligations.OutputPortsCarryTheResponse := by
  intro r u
  refine ⟨Response.read_drive u r, ?_⟩
  cases r with
  | result v => simp
  | error c => simp [Response.res?]

/-- An integer the port can carry is presented as its number (R21). -/
theorem presentInteger_of_inRange {z : Int} (hz : 0 ≤ z ∧ z < 2 ^ 64) :
    presentInteger z = .next (BitVec.ofNat 64 z.toNat) :=
  if_pos hz

/-- An integer the port cannot carry is refused (V5, V6). -/
theorem presentInteger_of_not_inRange {z : Int} (hz : ¬(0 ≤ z ∧ z < 2 ^ 64)) :
    presentInteger z = .refused (.cannotBePresented z) :=
  if_neg hz

/-- The 64-bit vector of an integer in the port's range has that integer as its number. -/
theorem toNat_ofNat_toNat_of_inRange {z : Int} (hz : 0 ≤ z ∧ z < 2 ^ 64) :
    ((BitVec.ofNat 64 z.toNat).toNat : Int) = z := by
  rw [BitVec.toNat_ofNat]
  omega

/-- Settles O57: the two branches of `presentInteger`; in range, nothing is lost in 64 bits. -/
theorem onlyUnsigned64BitIntegersArePresented : Obligations.OnlyUnsigned64BitIntegersArePresented :=
  ⟨fun _ hz => ⟨_, presentInteger_of_inRange hz, toNat_ofNat_toNat_of_inRange hz⟩,
    fun _ hz => presentInteger_of_not_inRange hz⟩

end Sys2Proof.Machine
end

section
/-! The block in use (R44, R47): repeated steps keep a settled state, and a list of transactions is answered request by
request. -/

namespace Sys2Proof.Machine

/-- A run goes on from the state its first step leaves. -/
theorem run_succ_of_step {s t : State} (h : step s = .next t) (k : Nat) :
    Host.Core.run core (k + 1) s = Host.Core.run core k t := by
  have coreStep : core.step s = .next t := h
  simp only [Host.Core.run, coreStep]

/-- However many steps, a settled state stays as it is (R31). -/
theorem run_of_settled {s : State} (hs : s.Settled) (k : Nat) : Host.Core.run core k s = .next s := by
  induction k with
  | zero => rfl
  | succ k ih => exact (run_succ_of_step hs k).trans ih

/-- Settles O12: the first step leaves a settled state (`State.settled_answer_response`), which the further steps keep
(`run_of_settled`). -/
theorem repeatingARequestChangesNothing : Obligations.RepeatingARequestChangesNothing := by
  intro k s
  rw [step_eq]
  exact (run_succ_of_step (step_eq s) k).trans (run_of_settled s.settled_answer_response k)

/-- From every state, a list of transactions gets the responses of its decoded requests in order (R47). -/
theorem serve_eq (rs : List Request) (s : State) :
    ∃ t : State, serve rs s = .next (rs.map fun r => instrResponse (decode r), t) := by
  induction rs generalizing s with
  | nil => exact ⟨s, rfl⟩
  | cons r rs ih =>
    obtain ⟨t, ht⟩ := ih { req := r, rsp := instrResponse (decode r) }
    exact ⟨t, by simp [serve, ht]⟩

/-- Settles O15: the function is the response of the decoded request, for one transaction by `transact_eq` and for a
list by `serve_eq`. -/
theorem transactionsAreIndependent : Obligations.TransactionsAreIndependent :=
  ⟨fun r => instrResponse (decode r), transact_eq, serve_eq⟩

end Sys2Proof.Machine
end

section
/-! The bytes of a double on `opa` (R41, R42): a byte is a slice of the pattern, adjacent slices join to one, and the
little-endian image is the big-endian encoding in reverse. -/

namespace Sys2Proof.Machine

/-- Bit `j` of byte `i` is bit `56 - 8i + j` of the pattern (R41). -/
theorem getLsbD_opaByte (f : Operand) (i : Fin 8) {j : Nat} (hj : j < 8) :
    (opaByte f i).getLsbD j = f.getLsbD (56 - 8 * i.val + j) := by
  simp [opaByte, hj]

/-- A slice of a byte is a slice of the pattern. -/
theorem extractLsb'_opaByte (f : Operand) (i : Fin 8) {start len : Nat} (h : start + len ≤ 8) :
    (opaByte f i).extractLsb' start len = f.extractLsb' (56 - 8 * i.val + start) len := by
  apply BitVec.eq_of_getLsbD_eq
  intro j hj
  have inByte : start + j < 8 := by omega
  simp [hj, getLsbD_opaByte f i inByte, Nat.add_assoc]

/-- A slice that ends at bit 48 goes on with bytes 2 to 7: each byte begins where the slice before it ends. -/
theorem extractLsb'_append_lowBytes (f : Operand) (len : Nat) :
    f.extractLsb' 48 len ++ opaByte f 2 ++ opaByte f 3 ++ opaByte f 4 ++ opaByte f 5 ++ opaByte f 6 ++ opaByte f 7 =
      f.extractLsb' 0 (len + 48) := by
  simp [opaByte, BitVec.extractLsb'_append_extractLsb'_eq_extractLsb']

/-- A pattern's bytes put in a row are the pattern. -/
@[simp] theorem opaOfBigEndian_opaByte (f : Operand) : opaOfBigEndian (opaByte f) = f := by
  have top : opaByte f 0 ++ opaByte f 1 = f.extractLsb' 48 16 :=
    BitVec.extractLsb'_append_extractLsb'_eq_extractLsb' rfl
  rw [opaOfBigEndian, top]
  exact (extractLsb'_append_lowBytes f 16).trans BitVec.extractLsb'_eq_self

/-- Eight bytes have as many values as a pattern. -/
theorem card_bytes_eq_card_operand : Fintype.card (Fin 8 → Byte) = Fintype.card Operand := by
  have card_word (n : Nat) : Fintype.card (BitVec n) = 2 ^ n := by
    rw [← FinEnum.card_eq_fintypeCard, FinEnum.card_bitVec]
  rw [Fintype.card_pi_const, card_word 8, card_word 64, ← pow_mul]

/-- Byte `i` of the bytes put in a row is the byte itself: taking a pattern's bytes loses nothing
(`opaOfBigEndian_opaByte`) and so, by counting, reaches every choice of bytes. -/
@[simp] theorem opaByte_opaOfBigEndian (b : Fin 8 → Byte) (i : Fin 8) : opaByte (opaOfBigEndian b) i = b i := by
  have inverse : Function.RightInverse opaOfBigEndian opaByte :=
    Function.LeftInverse.rightInverse_of_card_le opaOfBigEndian_opaByte card_bytes_eq_card_operand.le
  rw [inverse b]

/-- The first bit of byte 0 is the sign (R41). -/
theorem signField_of_bytes (f : Operand) : (opaByte f 0).extractLsb' 7 1 = signField f :=
  extractLsb'_opaByte f 0 (by decide)

/-- The rest of byte 0 and the upper half of byte 1 are the exponent field (R41). -/
theorem exponentField_of_bytes (f : Operand) :
    (opaByte f 0).extractLsb' 0 7 ++ (opaByte f 1).extractLsb' 4 4 = exponentField f := by
  rw [extractLsb'_opaByte f 0 (by decide), extractLsb'_opaByte f 1 (by decide)]
  exact BitVec.extractLsb'_append_extractLsb'_eq_extractLsb' rfl

/-- The lower half of byte 1 and bytes 2 to 7 are the mantissa field (R41). -/
theorem mantissaField_of_bytes (f : Operand) :
    (opaByte f 1).extractLsb' 0 4 ++ opaByte f 2 ++ opaByte f 3 ++ opaByte f 4 ++ opaByte f 5 ++ opaByte f 6 ++
      opaByte f 7 = mantissaField f := by
  rw [extractLsb'_opaByte f 1 (by decide)]
  exact extractLsb'_append_lowBytes f 4

/-- A little-endian image presents its bytes in reverse (R42). -/
theorem opaOfLittleEndian_eq (m : Fin 8 → Byte) : opaOfLittleEndian m = opaOfBigEndian fun j => m j.rev := rfl

/-- Bit `j` of byte `i` of a little-endian image is bit `8i + j` of the pattern (R42). -/
theorem getLsbD_opaOfLittleEndian (m : Fin 8 → Byte) (i : Fin 8) {j : Nat} (hj : j < 8) :
    (opaOfLittleEndian m).getLsbD (8 * i.val + j) = (m i).getLsbD j := by
  have reversed : opaByte (opaOfLittleEndian m) i.rev = m i := by simp [opaOfLittleEndian_eq]
  have place : 56 - 8 * i.rev.val = 8 * i.val := by rw [Fin.val_rev]; omega
  rw [← place, ← getLsbD_opaByte _ _ hj, reversed]

/-- Settles O28: assembling and taking bytes are inverse to each other, the fields are slices that the bytes join to,
and a little-endian image is read in reverse. -/
theorem bytesAreBigEndianOnOpa : Obligations.BytesAreBigEndianOnOpa :=
  ⟨opaByte_opaOfBigEndian,
    fun f => ⟨opaOfBigEndian_opaByte f, fun i _ hj => getLsbD_opaByte f i hj, signField_of_bytes f,
      exponentField_of_bytes f, mantissaField_of_bytes f⟩,
    fun m i => ⟨opaOfLittleEndian_eq m, fun _ hj => getLsbD_opaOfLittleEndian m i hj⟩⟩

end Sys2Proof.Machine
end

section
/-! The decoder and the encoder through one function, `Op.instr`: an instruction is an operation with the fields it
reads (R63, R64). Encoding and decoding turn on the two lemmas that tie it to the model, `decode_eq` and
`encode_eq_commandWord`. -/

namespace Sys2Proof

/-- The instruction of an operation on the three fields of a request, of which it takes those it reads (R64, R70). -/
def Op.instr (o : Op) (n : WidthField) (a b : Operand) : Instr :=
  match o with
  | .fbits => .fbits a
  | .fsign => .fsign a
  | .fexpf => .fexpf a
  | .fexpv => .fexpv a
  | .fmanf => .fmanf a
  | .fmanv => .fmanv a
  | .bitlen => .bitlen a
  | .isovf => .isovf n a
  | .lsbt => .lsbt n a
  | .msbt => .msbt n a
  | .lsbta => .lsbta n a
  | .addlt => .addlt n a b
  | .mullt => .mullt n a b
  | .addmt => .addmt n a b
  | .mulmt => .mulmt n a b
  | .reserved15 => .reserved15

@[simp] theorem Op.op_instr (o : Op) (n : WidthField) (a b : Operand) : (o.instr n a b).op = o := by
  cases o <;> rfl

/-- Decoding takes the operation of the code and the fields of the request. -/
theorem decode_eq (r : Request) : decode r = (Op.ofCode r.op).instr r.n r.opa r.opb := by
  unfold decode
  cases Op.ofCode r.op <;> rfl

/-- A request whose code is an operation's decodes to that operation on the request's fields. -/
theorem decode_of_op {r : Request} {o : Op} (h : r.op = o.code) : decode r = o.instr r.n r.opa r.opb := by
  rw [decode_eq, h, Op.ofCode_code]

/-- A request is decoded to an operation exactly when it has the operation's code. -/
theorem op_decode_eq_iff (r : Request) (o : Op) : (decode r).op = o ↔ r.op = o.code := by
  rw [decode_eq, Op.op_instr]
  constructor
  · rintro rfl
    exact (Op.code_ofCode r.op).symm
  · intro h
    rw [h, Op.ofCode_code]

/-- A request with a command word of the encoder's form decodes to the operation on the fields written. -/
@[simp] theorem decode_commandWord (o : Op) (n : WidthField) (a b : Operand) :
    decode ⟨commandWord n o, a, b⟩ = o.instr n a b := by
  have code : Request.op ⟨commandWord n o, a, b⟩ = o.code := commandWord_op n o
  have width : Request.n ⟨commandWord n o, a, b⟩ = n := commandWord_n n o
  rw [decode_of_op code, width]

/-- An encoding is the command word of the instruction's operation beside operands, and the operation on these fields is
the instruction. -/
theorem encode_eq_commandWord (i : Instr) :
    ∃ n a b, encode i = ⟨commandWord n i.op, a, b⟩ ∧ i.op.instr n a b = i := by
  cases i <;> exact ⟨_, _, _, rfl, rfl⟩

/-- The encoder is inverted by the decoder. -/
@[simp] theorem decode_encode (i : Instr) : decode (encode i) = i := by
  obtain ⟨n, a, b, encoded, same⟩ := encode_eq_commandWord i
  rw [encoded, decode_commandWord, same]

/-- The encoder writes a field that the operation reads and zero in one it ignores (R68). -/
theorem encode_instr (o : Op) (n : WidthField) (a b : Operand) :
    encode (o.instr n a b) =
      ⟨commandWord (if o.reads.n then n else 0) o, if o.reads.opa then a else 0, if o.reads.opb then b else 0⟩ := by
  cases o <;> rfl

/-- Encoding a decoded request keeps the fields its operation reads (R64, R68). -/
theorem encode_decode (r : Request) : encode (decode r) = r.keepRead := by
  rw [decode_eq, encode_instr, commandWord, Op.code_ofCode]
  rfl

/-- What an operation ignores plays no part in decoding. -/
theorem decode_keepRead (r : Request) : decode r.keepRead = decode r := by
  rw [← encode_decode, decode_encode]

@[simp] theorem Request.keepRead_op (r : Request) : r.keepRead.op = r.op := width_append_code_op _ _

theorem Request.keepRead_n (r : Request) : r.keepRead.n = if (Op.ofCode r.op).reads.n then r.n else 0 :=
  width_append_code_n _ _

/-- Requests that agree in the operation and in every field it reads keep the same. -/
theorem Request.keepRead_congr {r r' : Request} (op : r.op = r'.op)
    (n : (Op.ofCode r.op).reads.n = true → r.n = r'.n)
    (opa : (Op.ofCode r.op).reads.opa = true → r.opa = r'.opa)
    (opb : (Op.ofCode r.op).reads.opb = true → r.opb = r'.opb) : r.keepRead = r'.keepRead := by
  unfold Request.keepRead
  rw [← op]
  dsimp only
  rw [ite_congr rfl n fun _ => rfl, ite_congr rfl opa fun _ => rfl, ite_congr rfl opb fun _ => rfl]

/-- The number of one vector above another. -/
theorem toNat_append_eq_add {m k : Nat} (x : BitVec m) (y : BitVec k) :
    (x ++ y).toNat = x.toNat * 2 ^ k + y.toNat := by
  rw [BitVec.toNat_append, ← Nat.shiftLeft_add_eq_or_of_lt y.isLt, Nat.shiftLeft_eq]

/-- The number of a width above a code (R61). -/
theorem toNat_width_append_code (n : WidthField) (c : OpCode) : (n ++ c : Command).toNat = 16 * n.toNat + c.toNat := by
  rw [Nat.mul_comm 16]
  exact toNat_append_eq_add n c

/-- The command word is its width above its code (R61). -/
theorem Request.cmd_eq_append (r : Request) : r.cmd = (r.n ++ r.op : Command) :=
  calc r.cmd
    _ = r.cmd.extractLsb' 0 12 := BitVec.extractLsb'_eq_self.symm
    _ = r.n ++ r.op := (BitVec.extractLsb'_append_extractLsb'_eq_extractLsb' (len₁ := 4) (len₂ := 8) rfl).symm

/-- The number of a packed request (R60). -/
theorem Request.toNat_pack (r : Request) :
    r.pack.toNat = r.opb.toNat * 2 ^ 76 + r.opa.toNat * 2 ^ 12 + r.cmd.toNat :=
  calc r.pack.toNat
    _ = (r.opb ++ r.opa).toNat * 2 ^ 12 + r.cmd.toNat := toNat_append_eq_add _ _
    _ = r.opb.toNat * 2 ^ 76 + r.opa.toNat * 2 ^ 12 + r.cmd.toNat := by rw [toNat_append_eq_add]; omega

/-- Unpacking reads the three words back. -/
@[simp] theorem Request.unpack_pack (r : Request) : Request.unpack r.pack = r := by
  have cmd : r.pack.extractLsb' 0 12 = r.cmd := BitVec.extractLsb'_append_eq_right
  have opa : r.pack.extractLsb' 12 64 = r.opa := by
    apply BitVec.eq_of_getLsbD_eq
    intro i hi
    simp [Request.getLsbD_pack, hi, show 12 + i < 76 by omega]
  have opb : r.pack.extractLsb' 76 64 = r.opb := by
    apply BitVec.eq_of_getLsbD_eq
    intro i hi
    simp [Request.getLsbD_pack, hi, show ¬76 + i < 12 by omega]
  rw [Request.unpack, cmd, opa, opb]

/-- Packing puts the three words in their places again. -/
@[simp] theorem Request.pack_unpack (w : BitVec 140) : (Request.unpack w).pack = w := by
  have operands : w.extractLsb' 76 64 ++ w.extractLsb' 12 64 = w.extractLsb' 12 128 :=
    BitVec.extractLsb'_append_extractLsb'_eq_extractLsb' rfl
  have whole : w.extractLsb' 12 128 ++ w.extractLsb' 0 12 = w.extractLsb' 0 140 :=
    BitVec.extractLsb'_append_extractLsb'_eq_extractLsb' rfl
  simp only [Request.pack, Request.unpack]
  rw [operands, whole]
  exact BitVec.extractLsb'_eq_self

/-- A number of 140 bits is decoded as the request it packs (R60). -/
theorem decodeNumber_of_lt {w : Nat} (hw : w < 2 ^ 140) :
    decodeNumber w = .ok (decode (Request.unpack (BitVec.ofNat 140 w))) :=
  if_pos hw

/-- A wider number is no request (log 6). -/
theorem decodeNumber_of_le {w : Nat} (hw : 2 ^ 140 ≤ w) : decodeNumber w = .error .widerThanRequest :=
  if_neg (Nat.not_lt.mpr hw)

/-- The number of a packed request is decoded as the request. -/
@[simp] theorem decodeNumber_pack (r : Request) : decodeNumber r.pack.toNat = .ok (decode r) := by
  rw [decodeNumber_of_lt r.pack.isLt, BitVec.ofNat_toNat, BitVec.setWidth_eq, Request.unpack_pack]

/-- Settles O6: `decode_encode`, and a packed request is decoded as the request
(`decodeNumber_pack`). -/
theorem decodeOfEncodeIsTheInstruction : Obligations.DecodeOfEncodeIsTheInstruction :=
  fun i => ⟨decode_encode i, (decodeNumber_pack _).trans (congrArg Except.ok (decode_encode i))⟩

/-- Settles O7: `encode_decode`, and what `keepRead` keeps. -/
theorem encodeOfDecodeKeepsTheReadFields : Obligations.EncodeOfDecodeKeepsTheReadFields := by
  intro r
  rw [encode_decode]
  exact ⟨rfl, r.keepRead_op, fun n => r.keepRead_n.trans (if_pos n), fun opa => if_pos opa, fun opb => if_pos opb⟩

/-- Settles O5: `Request.unpack_pack` and `Request.pack_unpack`, the number by `Request.toNat_pack`; decoding of a
number is an error exactly in its second case. -/
theorem requestIsOneNumberOf140Bits : Obligations.RequestIsOneNumberOf140Bits := by
  refine ⟨fun r => ⟨r.unpack_pack, r.toNat_pack, decodeNumber_pack r⟩, Request.pack_unpack, fun w => ⟨fun h => ?_,
    decodeNumber_of_le⟩⟩
  by_contra fits
  rw [decodeNumber_of_lt (Nat.lt_of_not_le fits)] at h
  cases h

/-- Settles O4: the fields are slices of the command word, which join to it. -/
theorem commandWordIsWidthThenOperation : Obligations.CommandWordIsWidthThenOperation :=
  ⟨fun r => ⟨rfl, rfl, r.cmd_eq_append, (congrArg BitVec.toNat r.cmd_eq_append).trans (toNat_width_append_code _ _)⟩,
    fun n o => toNat_width_append_code n o.code⟩

/-- Settles O8: each command word is the encoder's, of an operation and a width (`decode_commandWord`); the reserved
code's has the width 127. -/
theorem writtenOutWordsDecode : Obligations.WrittenOutWordsDecode :=
  ⟨decode_commandWord .fsign 0 _ _, decode_commandWord .lsbt 10 _ _, decode_commandWord .mulmt 10 _ _,
    decode_commandWord .mullt 128 _ _, decode_commandWord .reserved15 127 _ _⟩

end Sys2Proof
end

section
/-! The rows of the opcode map (R63): the row of an operation matches exactly the command words with its code. -/

namespace Sys2Proof

/-- The row of an operation: its command word of width 0, under the mask of the `op` field (R63). -/
def Op.row (o : Op) : OpcodeRow := ⟨o, commandWord 0 o, 0x00F⟩

/-- The opcode map holds the rows of the operations and no others. -/
theorem mem_opcodeTable_iff (row : OpcodeRow) : row ∈ opcodeTable ↔ ∃ o : Op, o.row = row := by
  have table : opcodeTable = Machine.allOps.map Op.row := rfl
  have all (o : Op) : o ∈ Machine.allOps := by cases o <;> decide
  rw [table, List.mem_map]
  exact ⟨fun ⟨o, _, h⟩ => ⟨o, h⟩, fun ⟨o, h⟩ => ⟨o, all o, h⟩⟩

/-- The mask of a row clears the width and keeps the code. -/
theorem width_append_code_and_mask (n : WidthField) (c : OpCode) :
    (n ++ c : Command) &&& 0x00F#12 = (0#8 ++ c : Command) :=
  calc (n ++ c : Command) &&& 0x00F#12
    _ = (n ++ c) &&& (0#8 ++ BitVec.allOnes 4) := rfl
    _ = (n &&& 0#8) ++ (c &&& BitVec.allOnes 4) := BitVec.and_append
    _ = 0#8 ++ c := by rw [BitVec.and_zero, BitVec.and_allOnes]

/-- A request selects the row of the operation it decodes to (R63). -/
theorem matches_row_iff (r : Request) (o : Op) : r.cmd &&& 0x00F#12 = commandWord 0 o ↔ (decode r).op = o := by
  rw [r.cmd_eq_append, width_append_code_and_mask, op_decode_eq_iff]
  exact BitVec.append_right_inj 0#8

/-- Settles O3: every row is some operation's (`mem_opcodeTable_iff`) and is matched exactly by the requests that decode
to the operation (`matches_row_iff`), so a command word matches the row of its own operation alone. -/
theorem opcodeRowsPartitionTheCommandWords : Obligations.OpcodeRowsPartitionTheCommandWords := by
  refine ⟨fun r => ?_, fun r row hrow => ?_, fun c => ?_⟩
  · exact ⟨matches_row_iff r .fbits, matches_row_iff r .fsign, matches_row_iff r .fexpf, matches_row_iff r .fexpv,
      matches_row_iff r .fmanf, matches_row_iff r .fmanv, matches_row_iff r .bitlen, matches_row_iff r .isovf,
      matches_row_iff r .lsbt, matches_row_iff r .msbt, matches_row_iff r .lsbta, matches_row_iff r .addlt,
      matches_row_iff r .mullt, matches_row_iff r .addmt, matches_row_iff r .mulmt, matches_row_iff r .reserved15⟩
  · obtain ⟨o, rfl⟩ := (mem_opcodeTable_iff row).mp hrow
    exact matches_row_iff r o
  · obtain ⟨r, rfl⟩ : ∃ r : Request, r.cmd = c := ⟨⟨c, 0, 0⟩, rfl⟩
    refine ⟨(decode r).op.row, ⟨(mem_opcodeTable_iff _).mpr ⟨_, rfl⟩, (matches_row_iff r _).mpr rfl⟩, ?_⟩
    rintro row ⟨hrow, selected⟩
    obtain ⟨o, rfl⟩ := (mem_opcodeTable_iff row).mp hrow
    rw [(matches_row_iff r o).mp selected]

end Sys2Proof
end

section
/-! The step as the dispatch of the decoded request (R65, R70). -/

namespace Sys2Proof.Machine

/-- Settles O2: each arm is `decode_of_op` at its operation; the one response is that of `step_eq`. -/
theorem dispatchFollowsTheOperationCode : Obligations.DispatchFollowsTheOperationCode := by
  refine ⟨fun r => ?_, fun s => ⟨_, step_eq s, fun x hx => ?_⟩⟩
  · exact ⟨decode_of_op (o := .fbits), decode_of_op (o := .fsign), decode_of_op (o := .fexpf),
      decode_of_op (o := .fexpv), decode_of_op (o := .fmanf), decode_of_op (o := .fmanv), decode_of_op (o := .bitlen),
      decode_of_op (o := .isovf), decode_of_op (o := .lsbt), decode_of_op (o := .msbt), decode_of_op (o := .lsbta),
      decode_of_op (o := .addlt), decode_of_op (o := .mullt), decode_of_op (o := .addmt), decode_of_op (o := .mulmt),
      decode_of_op (o := .reserved15)⟩
  · exact (next_answer_inj s _ _).mp (hx.symm.trans (step_eq s))

/-- Settles O11: requests that agree in what their operation reads keep the same (`Request.keepRead_congr`), and
decoding looks at nothing else (`decode_keepRead`). -/
theorem ignoredFieldsHaveNoEffect : Obligations.IgnoredFieldsHaveNoEffect := by
  refine ⟨fun o => by cases o <;> rfl, fun s s' op n opa opb => ?_⟩
  have same : decode s.req = decode s'.req := by
    rw [← decode_keepRead, Request.keepRead_congr op n opa opb, decode_keepRead]
  exact ⟨_, step_eq s, same ▸ step_eq s'⟩

/-- A table word that decodes is a number of at most 140 bits, and it is decoded as the request it packs. -/
theorem decodeTableWord_eq_some {nbits w : Nat} {i : Instr} (h : decodeTableWord nbits w = some i) :
    w % 2 ^ nbits < 2 ^ 140 ∧ decode (Request.unpack (BitVec.ofNat 140 (w % 2 ^ nbits))) = i := by
  unfold decodeTableWord at h
  by_cases fits : w % 2 ^ nbits < 2 ^ 140
  · rw [decodeNumber_of_lt fits] at h
    exact ⟨fits, Option.some.inj h⟩
  · rw [decodeNumber_of_le (Nat.le_of_not_lt fits)] at h
    cases h

/-- Settles O1: a step runs the decoded request by definition; a number that decodes is one that packs the request. -/
theorem stepRunsTheDecodedRequest : Obligations.StepRunsTheDecodedRequest := by
  refine ⟨fun s => rfl, fun s i h => ?_, fun s nbits w i h => ?_⟩
  · rw [decodeNumber_pack] at h
    cases h
    rfl
  · obtain ⟨fits, rfl⟩ := decodeTableWord_eq_some h
    refine ⟨rfl, ?_, rfl⟩
    rw [State.withFetchWord, State.present_req, Request.pack_unpack, BitVec.toNat_ofNat, Nat.mod_eq_of_lt fits]

/-- Only the reserved code is answered with `ILLEGAL_OP`: the checks raise the two domain errors (R151). -/
theorem instrResponse_eq_illegalOp_iff (i : Instr) : instrResponse i = .error .illegalOp ↔ i.op = .reserved15 := by
  have checked (v : Nat) (x : Result) : checkedResponse v x ≠ .error .illegalOp := by
    unfold checkedResponse
    split_ifs <;> simp
  have truncated (policy : Nat → Nat → Nat) (v n : Nat) : truncatedResponse policy v n ≠ .error .illegalOp := by
    unfold truncatedResponse
    split_ifs <;> simp
  cases i <;> simp [instrResponse, Instr.op, checked, truncated]

/-- Settles O51: a step answers the response of the decoded request, which is `ILLEGAL_OP` exactly for the operation
that code 15 selects. -/
theorem reservedCodeIsIllegal : Obligations.ReservedCodeIsIllegal := by
  have illegal_iff (s : State) : step s = .next (s.answer (.error .illegalOp)) ↔ s.req.op = 15#4 := by
    rw [step_eq, next_answer_inj, instrResponse_eq_illegalOp_iff, op_decode_eq_iff]
    rfl
  exact ⟨exec_eq .reserved15, fun s => (illegal_iff s).mpr, fun s => (illegal_iff s).mp⟩

end Sys2Proof.Machine
end

section
/-! What a transaction script answers (R69): a back reference reads an earlier result, and every line is a transaction
after the ones before it. -/

namespace Sys2Proof.Machine

/-- A back reference has a value exactly when it names an earlier transaction that ended with a result (R69). -/
theorem backReference_eq_next_iff (done : List Response) (k v : Nat) :
    backReference done k = .next v ↔ 1 ≤ k ∧ ∃ x : Result, done[k - 1]? = some (.result x) ∧ x.toNat = v := by
  cases k with
  | zero => simp [backReference]
  | succ j =>
    rcases earlier : done[j]? with _ | x | c <;> simp [backReference, earlier]

/-- A field written as a back reference carries its value if that fits the port (R69). -/
theorem fieldValue_ref_eq_next_iff (done : List Response) (draw width k v : Nat) :
    fieldValue done draw width (some (.ref k)) = .next v ↔ backReference done k = .next v ∧ v < 2 ^ width := by
  rw [fieldValue]
  constructor
  · intro h
    obtain ⟨z, value, carried⟩ := andThen_eq_next h
    split_ifs at carried with fits
    cases carried
    exact ⟨value, fits⟩
  · rintro ⟨value, fits⟩
    rw [value, andThen_next, if_pos fits]

/-- A script that runs to its end runs its first line's request and then the rest after the response to it. -/
theorem runScriptFrom_cons {done : List Response} {l : Line} {ls : List Line} {s : State}
    {last : List Response × State} (h : runScriptFrom done (l :: ls) s = .next last) :
    ∃ r : Request, Line.request done l = .next r ∧
      runScriptFrom (done ++ [instrResponse (decode r)]) ls ⟨r, instrResponse (decode r)⟩ = .next last := by
  rw [runScriptFrom] at h
  obtain ⟨r, request, h⟩ := andThen_eq_next h
  rw [transact_eq, andThen_next] at h
  exact ⟨r, request, h⟩

/-- A script that runs to its end keeps the responses it began with and appends one for each line: the response to the
request the line stands for after the responses before it. -/
theorem runScriptFrom_responses {ls : List Line} {done out : List Response} {s t : State}
    (h : runScriptFrom done ls s = .next (out, t)) :
    done <+: out ∧ out.length = done.length + ls.length ∧
      ∀ (k : Nat) (l : Line), ls[k]? = some l → ∃ r : Request,
        Line.request (out.take (done.length + k)) l = .next r ∧
          out[done.length + k]? = some (instrResponse (decode r)) := by
  induction ls generalizing done s with
  | nil =>
    cases h
    exact ⟨List.prefix_rfl, rfl, fun k l hl => by simp at hl⟩
  | cons l₀ ls ih =>
    obtain ⟨r₀, request₀, rest⟩ := runScriptFrom_cons h
    obtain ⟨⟨later, rfl⟩, length, lines⟩ := ih rest
    refine ⟨⟨_, (List.append_assoc _ _ _).symm⟩, ?_, fun k l hl => ?_⟩
    · rw [length, List.length_append, List.length_singleton, List.length_cons, Nat.add_assoc, Nat.add_comm 1]
    · cases k with
      | zero =>
        cases hl
        exact ⟨r₀, by simpa using request₀, by simp⟩
      | succ k =>
        have place : (done ++ [instrResponse (decode r₀)]).length + k = done.length + (k + 1) := by
          rw [List.length_append, List.length_singleton, Nat.add_assoc, Nat.add_comm 1]
        rw [← place]
        exact lines k l hl

/-- Settles O58: a back reference by `fieldValue_ref_eq_next_iff`; the lines by `runScriptFrom_responses` from no
response, each response being that of a transaction from any state (`transact_eq`). -/
theorem scriptLinesAreTransactions : Obligations.ScriptLinesAreTransactions := by
  refine ⟨fun done draw width k v => ?_, fun ls s t out h => ?_⟩
  · rw [fieldValue_ref_eq_next_iff, backReference_eq_next_iff]
    tauto
  · obtain ⟨-, length, lines⟩ := runScriptFrom_responses (done := []) h
    rw [List.length_nil, Nat.zero_add] at length
    refine ⟨length, fun k l hl => ?_⟩
    obtain ⟨r, request, response⟩ := lines k l hl
    rw [List.length_nil, Nat.zero_add] at request response
    exact ⟨r, _, request, response, fun s' => transact_eq s' r⟩

end Sys2Proof.Machine
end

section
/-! The request of a written line (R68): its operation, and what each field carries. -/

namespace Sys2Proof.Machine

/-- A line that stands for a request is well-formed, and the request is the encoder's command word beside the numbers
that its fields carry. -/
theorem Line.request_eq_next {done : List Response} {l : Line} {r : Request} (h : Line.request done l = .next r) :
    fieldOk l.op.reads.n 8 l.n = true ∧ fieldOk l.op.reads.opa 64 l.opa = true ∧
      fieldOk l.op.reads.opb 64 l.opb = true ∧ ∃ n a b,
        fieldValue done 0 8 l.n = .next n ∧ fieldValue done (2 * done.length) 64 l.opa = .next a ∧
        fieldValue done (2 * done.length + 1) 64 l.opb = .next b ∧
        r = ⟨commandWord (BitVec.ofNat 8 n) l.op, BitVec.ofNat 64 a, BitVec.ofNat 64 b⟩ := by
  unfold Line.request at h
  split_ifs at h with wf
  obtain ⟨n, hn, h⟩ := andThen_eq_next h
  obtain ⟨a, ha, h⟩ := andThen_eq_next h
  obtain ⟨b, hb, h⟩ := andThen_eq_next h
  cases h
  simp only [Line.wf, Bool.and_eq_true] at wf
  obtain ⟨⟨okN, okA⟩, okB⟩ := wf
  exact ⟨okN, okA, okB, n, a, b, hn, ha, hb, rfl⟩

/-- A numeral that fits its port is carried as itself (R68). -/
theorem toNat_of_fieldValue_num {reads : Bool} {width draw v z : Nat} {done : List Response} {field : Option Arg}
    (fits : fieldOk reads width field = true) (value : fieldValue done draw width field = .next z)
    (written : field = some (.num v)) : (BitVec.ofNat width z).toNat = v := by
  subst written
  have lt : v < 2 ^ width := of_decide_eq_true fits
  cases value
  rw [BitVec.toNat_ofNat, Nat.mod_eq_of_lt lt]

/-- A field left out is zero and is one the operation ignores (R68). -/
theorem zero_of_fieldValue_none {reads : Bool} {width draw z : Nat} {done : List Response} {field : Option Arg}
    (ok : fieldOk reads width field = true) (value : fieldValue done draw width field = .next z)
    (leftOut : field = none) : BitVec.ofNat width z = 0 ∧ reads = false := by
  subst leftOut
  cases value
  exact ⟨rfl, by simpa [fieldOk] using ok⟩

/-- Settles O59: the request is a command word of the line's operation beside the numbers of its fields
(`Line.request_eq_next`); each field is a numeral or left out; the printed lines are assembled by computation. -/
theorem writtenRequestsAssemble : Obligations.WrittenRequestsAssemble := by
  refine ⟨fun done l r h => ?_, rfl, rfl, rfl, rfl⟩
  obtain ⟨okN, okA, okB, n, a, b, hn, ha, hb, rfl⟩ := Line.request_eq_next h
  have width : Request.n ⟨commandWord (BitVec.ofNat 8 n) l.op, BitVec.ofNat 64 a, BitVec.ofNat 64 b⟩ =
    BitVec.ofNat 8 n := commandWord_n _ _
  rw [decode_commandWord, Op.op_instr, width]
  exact ⟨rfl, fun _ => toNat_of_fieldValue_num okN hn, fun _ => toNat_of_fieldValue_num okA ha,
    fun _ => toNat_of_fieldValue_num okB hb, zero_of_fieldValue_none okN hn, zero_of_fieldValue_none okA ha,
    zero_of_fieldValue_none okB hb⟩

end Sys2Proof.Machine
end

section
/-! How large the results are (R66, R67, R111): the bounds of the truncation functions, and the numbers that the forms
of `res` carry. -/

namespace Sys2Proof.Machine

/-- LSB truncation keeps a value that is not longer than the width. -/
theorem lsbt_of_bitlen_le {v n : Nat} (h : bitlen v ≤ n) : lsbt v n = v := if_neg (Nat.not_lt.mpr h)

/-- MSB truncation keeps a value that is not longer than the width. -/
theorem msbt_of_bitlen_le {v n : Nat} (h : bitlen v ≤ n) : msbt v n = v := if_neg (Nat.not_lt.mpr h)

/-- LSB truncation with approximation keeps a value that is not longer than the width. -/
theorem lsbta_of_bitlen_le {v n : Nat} (h : bitlen v ≤ n) : lsbta v n = v := if_pos h

/-- The leading bits of a longer value are what LSB truncation keeps. -/
theorem keptPrefix_eq_lsbt {v n : Nat} (h : n < bitlen v) : keptPrefix v n = lsbt v n := (if_pos h).symm

/-- LSB truncation of a non-zero value to a non-zero width is not zero: the leading bit is kept. -/
theorem lsbt_pos {v n : Nat} (hv : v ≠ 0) (hn : n ≠ 0) : 1 ≤ lsbt v n := by
  rcases Nat.lt_or_ge n (bitlen v) with longer | short
  · have leading : 2 ^ (bitlen v - n) ≤ v := (lt_bitlen_iff hv _).mp (by omega)
    rw [lsbt, if_pos longer]
    exact Nat.div_pos leading (by positivity)
  · rw [lsbt_of_bitlen_le short]
    exact Nat.one_le_iff_ne_zero.mpr hv

/-- LSB truncation with approximation gives zero no more than LSB truncation does. -/
theorem lsbta_pos {v n : Nat} (hv : v ≠ 0) (hn : n ≠ 0) : 1 ≤ lsbta v n := by
  unfold lsbta
  split_ifs with short up
  · exact Nat.one_le_iff_ne_zero.mpr hv
  · exact lsbt_pos (Nat.succ_ne_zero _) hn
  · rw [keptPrefix_eq_lsbt (Nat.lt_of_not_le short)]
    exact lsbt_pos hv hn

/-- LSB truncation with approximation never increases a value: at least one bit is discarded where it rounds up. -/
theorem lsbta_le {v : Nat} (hv : v ≠ 0) (n : Nat) : lsbta v n ≤ v := by
  unfold lsbta
  split_ifs with short up
  · exact le_rfl
  · have lt : keptPrefix v n < v :=
      Nat.div_lt_self (Nat.pos_of_ne_zero hv) (Nat.one_lt_two_pow (Nat.sub_ne_zero_of_lt (Nat.lt_of_not_le short)))
    exact (lsbt_le _ n).trans lt
  · exact Nat.div_le_self _ _

/-- The exact sum of two operands is at most `2^65 - 2` (R120). -/
theorem toNat_add_toNat_le (a b : Operand) : a.toNat + b.toNat ≤ 2 ^ 65 - 2 := by
  have ha := a.isLt
  have hb := b.isLt
  omega

/-- The exact product of two operands is at most `(2^64 - 1)^2` (R120). -/
theorem toNat_mul_toNat_le (a b : Operand) : a.toNat * b.toNat ≤ (2 ^ 64 - 1) ^ 2 := by
  rw [sq]
  exact Nat.mul_le_mul (Nat.le_sub_one_of_lt a.isLt) (Nat.le_sub_one_of_lt b.isLt)

/-- A number below `2^128` is carried on `res` as itself (R67). -/
theorem toNat_unsignedResult {z : Nat} (hz : z < 2 ^ 128) : (unsignedResult z).toNat = z := by
  rw [unsignedResult, BitVec.toNat_ofNat, Nat.mod_eq_of_lt hz]

/-- A vector is carried on `res` as its number (R67). -/
theorem toNat_zext128 {k : Nat} (hk : k ≤ 128) (v : BitVec k) : (zext128 v).toNat = v.toNat :=
  BitVec.toNat_setWidth_of_le hk

/-- A vector of `k` bits leaves the bits of `res` from `k` up zero (R67). -/
theorem toNat_zext128_lt {k : Nat} (hk : k ≤ 128) (v : BitVec k) : (zext128 v).toNat < 2 ^ k :=
  (toNat_zext128 hk v).trans_lt v.isLt

/-- A result behind the value check is the one handed to it, of a non-zero value. -/
theorem checkedResponse_eq_result {v : Nat} {x y : Result} (h : checkedResponse v x = .result y) : v ≠ 0 ∧ x = y := by
  unfold checkedResponse at h
  split_ifs at h with hv
  exact ⟨hv, Response.result.inj h⟩

/-- A result of a truncating operation is the policy's, of a non-zero value and a non-zero width. -/
theorem truncatedResponse_eq_result {policy : Nat → Nat → Nat} {v n : Nat} {x : Result}
    (h : truncatedResponse policy v n = .result x) : v ≠ 0 ∧ n ≠ 0 ∧ unsignedResult (policy v n) = x := by
  unfold truncatedResponse at h
  split_ifs at h with hv hn
  exact ⟨hv, hn, Response.result.inj h⟩

/-- Policies that keep a value which is not longer than the width keep every non-zero value of at most 128 bits at the
widths from 128 up (R66, R111). -/
theorem truncatedResponse_of_width_ge_128 {policy : Nat → Nat → Nat} {v n : Nat}
    (keeps : bitlen v ≤ n → policy v n = v) (hn : 128 ≤ n) (hv : v ≠ 0) (bound : v < 2 ^ 128) :
    truncatedResponse policy v n = .result (unsignedResult v) := by
  have short : bitlen v ≤ n := ((bitlen_le_iff hv 128).mpr bound).trans hn
  have wide : n ≠ 0 := by omega
  rw [truncatedResponse, if_neg hv, if_neg wide, keeps short]

/-- Settles O50: at these widths each policy keeps the operand, the sum or the product, none of which is longer than 128
bits (`truncatedResponse_of_width_ge_128`). -/
theorem widthsFrom128NeverTruncate : Obligations.WidthsFrom128NeverTruncate := by
  intro n a b s hn
  have operand : unsignedResult a.toNat = a.setWidth 128 := BitVec.ofNat_toNat 128 a
  have sum : unsignedResult (a.toNat + b.toNat) = a.setWidth 128 + b.setWidth 128 := by
    rw [unsignedResult, BitVec.ofNat_add, BitVec.ofNat_toNat, BitVec.ofNat_toNat]
  have product : unsignedResult (a.toNat * b.toNat) = a.setWidth 128 * b.setWidth 128 := by
    rw [unsignedResult, BitVec.ofNat_mul, BitVec.ofNat_toNat, BitVec.ofNat_toNat]
  rw [← sum, ← product, ← operand]
  simp only [exec_eq, next_answer_inj, List.forall_mem_cons, List.not_mem_nil, instrResponse, false_imp_iff,
    implies_true, and_true]
  refine ⟨fun ha => ?_, fun hv => ?_, fun hv => ?_⟩
  · have hv : a.toNat ≠ 0 := fun h => ha (BitVec.eq_of_toNat_eq h)
    have bound : a.toNat < 2 ^ 128 := a.isLt.trans (by decide)
    exact ⟨truncatedResponse_of_width_ge_128 lsbt_of_bitlen_le hn hv bound,
      truncatedResponse_of_width_ge_128 msbt_of_bitlen_le hn hv bound,
      truncatedResponse_of_width_ge_128 lsbta_of_bitlen_le hn hv bound⟩
  · have bound : a.toNat + b.toNat < 2 ^ 128 := (toNat_add_toNat_le a b).trans_lt (by decide)
    exact ⟨truncatedResponse_of_width_ge_128 lsbt_of_bitlen_le hn hv bound,
      truncatedResponse_of_width_ge_128 msbt_of_bitlen_le hn hv bound⟩
  · have bound : a.toNat * b.toNat < 2 ^ 128 := (toNat_mul_toNat_le a b).trans_lt (by decide)
    exact ⟨truncatedResponse_of_width_ge_128 lsbt_of_bitlen_le hn hv bound,
      truncatedResponse_of_width_ge_128 msbt_of_bitlen_le hn hv bound⟩

/-- A result of a truncating operation whose policy does not increase a value of at most 128 bits: the policy's number,
which is no greater than the value. -/
theorem toNat_of_truncatedResponse {policy : Nat → Nat → Nat} {v n bound : Nat} {x : Result}
    (h : truncatedResponse policy v n = .result x) (le : v ≠ 0 → policy v n ≤ v) (hv : v ≤ bound)
    (hb : bound < 2 ^ 128) : v ≠ 0 ∧ n ≠ 0 ∧ x.toNat = policy v n ∧ x.toNat ≤ bound := by
  obtain ⟨value, width, rfl⟩ := truncatedResponse_eq_result h
  have small : policy v n ≤ bound := (le value).trans hv
  rw [toNat_unsignedResult (small.trans_lt hb)]
  exact ⟨value, width, rfl, small⟩

/-- The result of LSB truncation lies between 1 and any bound on the value. -/
theorem lsbt_result_range {v n bound : Nat} {x : Result} (h : truncatedResponse lsbt v n = .result x)
    (hv : v ≤ bound) (hb : bound < 2 ^ 128) : 1 ≤ x.toNat ∧ x.toNat ≤ bound := by
  obtain ⟨value, width, number, small⟩ := toNat_of_truncatedResponse h (fun _ => lsbt_le v n) hv hb
  exact ⟨number ▸ lsbt_pos value width, small⟩

/-- The result of LSB truncation with approximation lies between 1 and any bound on the value. -/
theorem lsbta_result_range {v n bound : Nat} {x : Result} (h : truncatedResponse lsbta v n = .result x)
    (hv : v ≤ bound) (hb : bound < 2 ^ 128) : 1 ≤ x.toNat ∧ x.toNat ≤ bound := by
  obtain ⟨value, width, number, small⟩ := toNat_of_truncatedResponse h (lsbta_le · n) hv hb
  exact ⟨number ▸ lsbta_pos value width, small⟩

/-- The result of MSB truncation lies below any bound on the value; it may be zero. -/
theorem msbt_result_le {v n bound : Nat} {x : Result} (h : truncatedResponse msbt v n = .result x)
    (hv : v ≤ bound) (hb : bound < 2 ^ 128) : x.toNat ≤ bound := by
  obtain ⟨-, -, -, small⟩ := toNat_of_truncatedResponse h (fun _ => msbt_le v n) hv hb
  exact small

/-- The unbiased exponent lies between -1023 and 1024 (R84). -/
theorem exponentValue_range (f : Operand) : -1023 ≤ exponentValue f ∧ exponentValue f ≤ 1024 := by
  have field := (exponentField f).isLt
  have bias : Config.BIAS = 1023 := rfl
  rw [exponentValue, bias]
  omega

/-- A number that fits 128 bits is carried on `res` in two's complement as itself (R67). -/
theorem toInt_signedResult {z : Int} (hz : -2 ^ 127 ≤ z ∧ z < 2 ^ 127) : (signedResult z).toInt = z :=
  BitVec.toInt_ofInt_eq_self (by decide) hz.1 hz.2

/-- The leading 1 stands above the 52 bits of the mantissa field (R86). -/
theorem toNat_mantissaValue (f : Operand) : (mantissaValue f).toNat = 2 ^ 52 + (mantissaField f).toNat := by
  rw [mantissaValue, toNat_append_eq_add]
  rfl

/-- A boolean is carried in the lowest bit of `res`, every other bit zero (R67). -/
theorem boolResult_range (p : Bool) :
    (boolResult p).toNat ≤ 1 ∧ (boolResult p).getLsbD 0 = ((boolResult p).toNat == 1) := by
  cases p <;> decide

/-- Settles O19: the range of each kind of result, once the checks are passed; the document value is read off `res` by
definition, but for the boolean. -/
theorem resultsAreInRange : Obligations.ResultsAreInRange := by
  intro i s x h
  rw [exec_eq, next_answer_inj] at h
  cases i with
  | fbits f =>
    cases h
    exact ⟨toNat_zext128_lt (by decide) f, rfl⟩
  | fsign f =>
    cases h
    exact ⟨Nat.le_of_lt_succ (toNat_zext128_lt (by decide) _), rfl⟩
  | fexpf f =>
    cases h
    exact ⟨Nat.le_of_lt_succ (toNat_zext128_lt (by decide) _), rfl⟩
  | fexpv f =>
    cases h
    obtain ⟨low, high⟩ := exponentValue_range f
    refine ⟨?_, rfl⟩
    rw [toInt_signedResult (by omega)]
    exact ⟨low, high⟩
  | fmanf f =>
    cases h
    exact ⟨toNat_zext128_lt (by decide) _, rfl⟩
  | fmanv f =>
    cases h
    refine ⟨⟨?_, toNat_zext128_lt (by decide) _⟩, rfl⟩
    rw [toNat_zext128 (by decide), toNat_mantissaValue]
    exact Nat.le_add_right _ _
  | bitlen a =>
    obtain ⟨ha, rfl⟩ := checkedResponse_eq_result h
    have short : bitlen a.toNat ≤ 64 := (bitlen_le_iff ha 64).mpr a.isLt
    refine ⟨?_, rfl⟩
    rw [toNat_unsignedResult (by omega)]
    exact ⟨bitlen_pos _, short⟩
  | isovf n a =>
    obtain ⟨-, rfl⟩ := checkedResponse_eq_result h
    obtain ⟨range, bit⟩ := boolResult_range (decide (bitlen a.toNat > n.toNat))
    exact ⟨range, congrArg (fun p => some (DocValue.boolean p)) bit⟩
  | lsbt n a =>
    obtain ⟨low, high⟩ := lsbt_result_range h (Nat.le_sub_one_of_lt a.isLt) (by decide)
    exact ⟨⟨low, Nat.lt_of_le_pred (by decide) high⟩, rfl⟩
  | msbt n a =>
    exact ⟨Nat.lt_of_le_pred (by decide) (msbt_result_le h (Nat.le_sub_one_of_lt a.isLt) (by decide)), rfl⟩
  | lsbta n a =>
    obtain ⟨low, high⟩ := lsbta_result_range h (Nat.le_sub_one_of_lt a.isLt) (by decide)
    exact ⟨⟨low, Nat.lt_of_le_pred (by decide) high⟩, rfl⟩
  | addlt n a b => exact ⟨lsbt_result_range h (toNat_add_toNat_le a b) (by decide), rfl⟩
  | mullt n a b => exact ⟨lsbt_result_range h (toNat_mul_toNat_le a b) (by decide), rfl⟩
  | addmt n a b => exact ⟨msbt_result_le h (toNat_add_toNat_le a b) (by decide), rfl⟩
  | mulmt n a b => exact ⟨msbt_result_le h (toNat_mul_toNat_le a b) (by decide), rfl⟩
  | reserved15 => cases h

end Sys2Proof.Machine
end

section
/-! The fields of a binary64 pattern (R80 to R87) and the NaN patterns a host can draw (R89): the fields are adjacent
slices that join to the pattern, and a slice goes through `res` and through the pattern's string unchanged. -/

namespace Sys2Proof.Machine

/-- A pattern is its sign above the other 63 bits. -/
theorem signField_append_low (f : Operand) : signField f ++ f.extractLsb' 0 63 = f :=
  (BitVec.extractLsb'_append_extractLsb'_eq_extractLsb' rfl).trans BitVec.extractLsb'_eq_self

/-- The 63 bits under the sign are the exponent field above the mantissa field. -/
theorem exponentField_append_mantissaField (f : Operand) :
    exponentField f ++ mantissaField f = f.extractLsb' 0 63 :=
  BitVec.extractLsb'_append_extractLsb'_eq_extractLsb' rfl

/-- The three fields, concatenated, are the pattern (R87). -/
theorem fields_append (f : Operand) : signField f ++ exponentField f ++ mantissaField f = f := by
  have top : signField f ++ exponentField f = f.extractLsb' 52 12 :=
    BitVec.extractLsb'_append_extractLsb'_eq_extractLsb' rfl
  rw [top]
  exact (BitVec.extractLsb'_append_extractLsb'_eq_extractLsb' rfl).trans BitVec.extractLsb'_eq_self

/-- The exponent field of three fields put in a row is the second one. -/
@[simp] theorem exponentField_append (s : BitVec 1) (e : BitVec 11) (m : BitVec 52) :
    exponentField (s ++ e ++ m) = e := by
  rw [exponentField, BitVec.extractLsb'_append_eq_ite]
  exact BitVec.extractLsb'_append_eq_right

/-- The mantissa field of three fields put in a row is the third one. -/
@[simp] theorem mantissaField_append (s : BitVec 1) (e : BitVec 11) (m : BitVec 52) :
    mantissaField (s ++ e ++ m) = m :=
  BitVec.extractLsb'_append_eq_right

/-- The sign field is bit 63. -/
theorem signField_eq_ofBool (f : Operand) : signField f = BitVec.ofBool (f.getLsbD 63) := by
  apply BitVec.eq_of_getLsbD_eq
  intro i hi
  obtain rfl : i = 0 := Nat.lt_one_iff.mp hi
  simp [signField]

/-- The sign field is 1 exactly when bit 63 is set. -/
theorem signField_eq_one_iff (f : Operand) : signField f = 1#1 ↔ f.getLsbD 63 = true := by
  rw [signField_eq_ofBool]
  cases f.getLsbD 63 <;> decide

/-- What a NaN pattern is, field by field (R82; log 8). -/
theorem isNaN_iff (f : Operand) :
    isNaN f = true ↔ (exponentField f).toNat = 2047 ∧ (mantissaField f).toNat ≠ 0 := by
  simp [isNaN]

/-- What a zero is (R82). -/
theorem isZero_iff (f : Operand) : isZero f = true ↔ (f.extractLsb' 0 63).toNat = 0 := by
  simp [isZero]

/-- The one zero with the sign bit set is `0x8000000000000000`. -/
theorem negative_zero_iff (f : Operand) :
    f = 0x8000000000000000#64 ↔ f.getLsbD 63 = true ∧ isZero f = true := by
  constructor
  · rintro rfl
    decide
  · rintro ⟨sign, zero⟩
    have low : f.extractLsb' 0 63 = 0#63 := BitVec.eq_of_toNat_eq ((isZero_iff f).mp zero)
    rw [← signField_append_low f, (signField_eq_one_iff f).mpr sign, low]
    rfl

/-- The sign under `LT_ZERO`, with its condition in the words of R82. -/
theorem signBit_ltZero (f : Operand) :
    signBit .ltZero f = if f.getLsbD 63 = true ∧ ¬isNaN f = true ∧ ¬isZero f = true then 1#1 else 0#1 := by
  simp only [signBit, signField_eq_one_iff, Bool.not_eq_true]

/-- The two values of `SIGN_MODE` differ exactly on the NaN patterns and the zero with the sign bit set (R82). -/
theorem signBit_ne_iff (f : Operand) :
    signBit .ieeeBit f ≠ signBit .ltZero f ↔ f.getLsbD 63 = true ∧ (isNaN f = true ∨ isZero f = true) := by
  have stored : signBit .ieeeBit f = BitVec.ofBool (f.getLsbD 63) := signField_eq_ofBool f
  rw [stored, signBit_ltZero]
  cases f.getLsbD 63 <;> cases isNaN f <;> cases isZero f <;> decide

/-- Settles O22: the condition of `signBit_ltZero` on `res`, and `signBit_ne_iff` with the one negative zero. -/
theorem ltZeroSignDiffersOnlyOnNegativeZeroAndNaN : Obligations.LtZeroSignDiffersOnlyOnNegativeZeroAndNaN := by
  refine ⟨fun f s => ?_, fun f => ?_⟩
  · have answer : execFsignIn .ltZero f s = .next (s.answer (.result (zext128 (signBit .ltZero f)))) := reply_eq _ s
    simp only [answer, signBit_ltZero, isNaN_iff, isZero_iff, apply_ite zext128]
    rfl
  · rw [signBit_ne_iff, negative_zero_iff, isNaN_iff, and_or_left, or_comm]
    rfl

/-- The low bits of `res` are the vector laid on it (R67). -/
@[simp] theorem extractLsb'_zext128 {k : Nat} (hk : k ≤ 128) (v : BitVec k) : (zext128 v).extractLsb' 0 k = v := by
  rw [zext128, BitVec.extractLsb'_setWidth_of_le (by omega), BitVec.extractLsb'_eq_self]

/-- A slice of a vector has the characters of the vector's string at the slice's place (R9). -/
theorem str_extractLsb' {k start len : Nat} (v : BitVec k) (h : start + len ≤ k) :
    str (v.extractLsb' start len) = ((str v).drop (k - (start + len))).take len := by
  apply List.ext_getElem?
  intro i
  rcases Nat.lt_or_ge i len with inside | outside
  · have place : start + (len - 1 - i) = k - 1 - (k - (start + len) + i) := by omega
    rw [getElem?_str _ inside, List.getElem?_take_of_lt inside, List.getElem?_drop, getElem?_str v (by omega),
      BitVec.getLsbD_extractLsb', place, decide_eq_true (by omega), Bool.true_and]
  · rw [List.getElem?_eq_none ((length_str _).trans_le outside),
      List.getElem?_eq_none ((List.length_take_le _ _).trans outside)]

/-- Settles O20: `exec_eq`, and the whole of `res[63:0]` is the pattern. -/
theorem fbitsReturnsThePattern : Obligations.FbitsReturnsThePattern :=
  fun f s => ⟨exec_eq (.fbits f) s,
    congrArg (fun v => some (DocValue.binaryText (str v))) (extractLsb'_zext128 (by decide) f)⟩

/-- Settles O21: `exec_eq`; the sign of `IEEE_BIT` is the sign field. -/
theorem fsignReturnsTheStoredSignBit : Obligations.FsignReturnsTheStoredSignBit :=
  fun f s => exec_eq (.fsign f) s

/-- Settles O23: `exec_eq`, and the exponent field's string is a slice of the pattern's (`str_extractLsb'`). -/
theorem fexpfReturnsTheExponentField : Obligations.FexpfReturnsTheExponentField := by
  intro f s
  have text : str ((zext128 (exponentField f)).extractLsb' 0 11) = ((str f).drop 1).take 11 := by
    rw [extractLsb'_zext128 (by decide)]
    exact str_extractLsb' f (by decide)
  exact ⟨exec_eq (.fexpf f) s, congrArg (fun t => some (DocValue.binaryText t)) text⟩

/-- Settles O25: `exec_eq`, and the mantissa field's string is the end of the pattern's (`str_extractLsb'`). -/
theorem fmanfReturnsTheMantissaField : Obligations.FmanfReturnsTheMantissaField := by
  intro f s
  have text : str ((zext128 (mantissaField f)).extractLsb' 0 52) = (str f).drop 12 := by
    have rest : ((str f).drop 12).length ≤ 52 := by simp
    rw [extractLsb'_zext128 (by decide), mantissaField, str_extractLsb' f (by decide)]
    exact List.take_of_length_le rest
  exact ⟨exec_eq (.fmanf f) s, congrArg (fun t => some (DocValue.binaryText t)) text⟩

/-- Settles O26: the leading 1 stands above the mantissa field (`toNat_mantissaValue`), of 52 bits. -/
theorem fmanvPrependsTheLeadingOne : Obligations.FmanvPrependsTheLeadingOne := by
  intro f s
  have number : (zext128 (mantissaValue f)).toNat = 2 ^ 52 + (mantissaField f).toNat := by
    rw [toNat_zext128 (by decide), toNat_mantissaValue]
  have field := (mantissaField f).isLt
  exact ⟨_, exec_eq (.fmanv f) s, number, by omega, by omega⟩

/-- A number that is not negative is carried on `res` as itself (R67). -/
theorem toNat_of_toInt_nonneg {v : Result} (h : 0 ≤ v.toInt) : (v.toNat : Int) = v.toInt := by
  have cond := BitVec.toInt_eq_toNat_cond v
  have bound := v.isLt
  split_ifs at cond <;> omega

/-- A negative number is carried on `res` as itself plus `2^128` (R67). -/
theorem toNat_of_toInt_neg {v : Result} (h : v.toInt < 0) : (v.toNat : Int) = 2 ^ 128 + v.toInt := by
  have cond := BitVec.toInt_eq_toNat_cond v
  split_ifs at cond <;> omega

/-- The bits of `res` from 11 up are all ones when `res` carries a number from `-2^11` to -1 (R84). -/
theorem high_bits_allOnes {v : Result} (low : -2 ^ 11 ≤ v.toInt) (neg : v.toInt < 0) :
    v.extractLsb' 11 117 = BitVec.allOnes 117 := by
  have number := toNat_of_toInt_neg neg
  apply BitVec.eq_of_toNat_eq
  rw [BitVec.extractLsb'_toNat, BitVec.toNat_allOnes, Nat.shiftRight_eq_div_pow]
  omega

/-- Settles O24: `res` carries the unbiased exponent (`toInt_signedResult`), whose range is `exponentValue_range`; the
forms on `res` are those of two's complement. -/
theorem fexpvReturnsTheFieldMinusTheBias : Obligations.FexpvReturnsTheFieldMinusTheBias := by
  intro f s
  obtain ⟨low, high⟩ := exponentValue_range f
  have carried : (signedResult (exponentValue f)).toInt = exponentValue f := toInt_signedResult (by omega)
  exact ⟨_, exec_eq (.fexpv f) s, carried, by omega, toNat_of_toInt_nonneg,
    fun neg => ⟨toNat_of_toInt_neg neg, high_bits_allOnes (by omega) neg⟩⟩

/-- Settles O27: what the block returns are the fields (`extractLsb'_zext128`), which join to the pattern
(`fields_append`); another sign in front of the same two fields gives another pattern. -/
theorem fieldsConcatenateToThePattern : Obligations.FieldsConcatenateToThePattern := by
  refine ⟨fun f s => ⟨_, _, _, _, exec_eq (.fbits f) s, exec_eq (.fsign f) s, exec_eq (.fexpf f) s,
    exec_eq (.fmanf f) s, extractLsb'_zext128 (by decide) f, ?_⟩, fun f => ?_⟩
  · rw [extractLsb'_zext128 (by decide), extractLsb'_zext128 (by decide), extractLsb'_zext128 (by decide)]
    exact fields_append f
  · have stored : signBit .ieeeBit f ++ exponentField f ++ mantissaField f = f := fields_append f
    refine ⟨fun joined => ?_, fun same => same ▸ stored⟩
    have signs := joined.trans stored.symm
    rwa [BitVec.append_left_inj, BitVec.append_left_inj] at signs

/-- Every drawn pattern is a NaN pattern: its mantissa field is a number from 1 to `2^52 - 1` (R89). -/
theorem isNaN_nanPattern (sign : Bool) (k : Nat) : isNaN (nanPattern sign k) = true := by
  have payload : k % (2 ^ 52 - 1) + 1 < 2 ^ 52 := by omega
  rw [isNaN_iff, nanPattern, exponentField_append, mantissaField_append]
  refine ⟨rfl, ?_⟩
  rw [BitVec.toNat_ofNat, Nat.mod_eq_of_lt payload]
  exact Nat.succ_ne_zero _

/-- A NaN pattern is drawn by its sign and its mantissa field less one (R89). -/
theorem nanPattern_of_isNaN {f : Operand} (h : isNaN f = true) :
    nanPattern (f.getLsbD 63) ((mantissaField f).toNat - 1) = f := by
  obtain ⟨exponent, mantissa⟩ := (isNaN_iff f).mp h
  have field := (mantissaField f).isLt
  have payload : ((mantissaField f).toNat - 1) % (2 ^ 52 - 1) + 1 = (mantissaField f).toNat := by omega
  have ones : 2047#11 = exponentField f := BitVec.eq_of_toNat_eq exponent.symm
  rw [nanPattern, payload, BitVec.ofNat_toNat, BitVec.setWidth_eq, ones, ← signField_eq_ofBool]
  exact fields_append f

/-- Settles O56: `isNaN_nanPattern` for every draw, `nanPattern_of_isNaN` for every NaN pattern. -/
theorem hostNaNIsSomeNaNPattern : Obligations.HostNaNIsSomeNaNPattern :=
  ⟨fun _ => isNaN_nanPattern _ _, fun _ h => ⟨_, _, nanPattern_of_isNaN h⟩, fun _ _ => rfl⟩

end Sys2Proof.Machine
end

section
/-! The host's conversion of a fraction (R89, R139; log 14), read in the rationals: the logarithm is the integer part of
the fraction's own, the significand is the fraction over its unit, rounded, and an exact value is already a whole number
of its unit. -/

namespace Sys2Proof.Machine

/-- Scaling numerator or denominator by a power of two divides the fraction by it. -/
theorem scaled_div (num den : Nat) (e : Int) :
    ((num * 2 ^ (-e).toNat : Nat) : ℚ) / (den * 2 ^ e.toNat : Nat) = (num / den : ℚ) / 2 ^ e := by
  obtain ⟨n, rfl | rfl⟩ := e.eq_nat_or_neg
  · simp [div_div]
  · simp [div_mul_eq_mul_div]

/-- Comparing the scaled numerator and denominator compares the fraction with the power of two. -/
theorem scaled_lt_iff {den : Nat} (hden : 0 < den) (num : Nat) (e : Int) :
    num * 2 ^ (-e).toNat < den * 2 ^ e.toNat ↔ (num / den : ℚ) < 2 ^ e := by
  have scaled : (0 : ℚ) < (den * 2 ^ e.toNat : Nat) := Nat.cast_pos.mpr (by positivity)
  have unit : (0 : ℚ) < 2 ^ e := by positivity
  rw [← Nat.cast_lt (α := ℚ), ← div_lt_one scaled, scaled_div, div_lt_one unit]

/-- The lengths of numerator and denominator give a fraction's logarithm up to one. -/
theorem log_div_bounds {num den : Nat} (hnum : 0 < num) (hden : 0 < den) :
    (num.log2 : Int) - den.log2 - 1 ≤ Int.log 2 (num / den : ℚ) ∧
      Int.log 2 (num / den : ℚ) < (num.log2 : Int) - den.log2 + 1 := by
  have fraction : (0 : ℚ) < num / den := by positivity
  have numLow : (2 : ℚ) ^ num.log2 ≤ num := by exact_mod_cast Nat.log2_self_le hnum.ne'
  have numHigh : (num : ℚ) < 2 ^ (num.log2 + 1) := by exact_mod_cast Nat.lt_log2_self
  have denLow : (2 : ℚ) ^ den.log2 ≤ den := by exact_mod_cast Nat.log2_self_le hden.ne'
  have denHigh : (den : ℚ) ≤ 2 ^ (den.log2 + 1) := by exact_mod_cast Nat.lt_log2_self.le
  constructor
  · refine (Int.zpow_le_iff_le_log one_lt_two fraction).mp ?_
    calc (2 : ℚ) ^ ((num.log2 : Int) - den.log2 - 1)
      _ = 2 ^ num.log2 / 2 ^ (den.log2 + 1) := by
        rw [sub_sub, zpow_sub₀ two_ne_zero]
        rfl
      _ ≤ num / den := by gcongr
  · refine (Int.lt_zpow_iff_log_lt one_lt_two fraction).mp ?_
    calc (num / den : ℚ)
      _ < 2 ^ (num.log2 + 1) / 2 ^ den.log2 := by gcongr
      _ = 2 ^ ((num.log2 : Int) - den.log2 + 1) := by
        rw [sub_add_eq_add_sub, zpow_sub₀ two_ne_zero]
        rfl

/-- The logarithm of a positive fraction is the rational number's. -/
theorem fractionLog2_eq {num den : Nat} (hnum : 0 < num) (hden : 0 < den) :
    fractionLog2 num den = Int.log 2 (num / den : ℚ) := by
  have fraction : (0 : ℚ) < num / den := by positivity
  have below (e : Int) : num * 2 ^ (-e).toNat < den * 2 ^ e.toNat ↔ Int.log 2 (num / den : ℚ) < e :=
    (scaled_lt_iff hden num e).trans (Int.lt_zpow_iff_log_lt one_lt_two fraction)
  obtain ⟨low, high⟩ := log_div_bounds hnum hden
  simp only [fractionLog2, below]
  split_ifs <;> omega

/-- A whole number is the nearest one to itself. -/
theorem nearestEven_mul (m : Nat) {d : Nat} (hd : 0 < d) : nearestEven (m * d) d = m := by
  have none_left : 2 * (m * d % d) < d := by rwa [Nat.mul_mod_left, Nat.mul_zero]
  have quotient : m * d / d = m := Nat.mul_div_cancel m hd
  simp only [nearestEven, if_pos none_left, quotient]

/-- Rounding never falls below a whole number that the fraction reaches. -/
theorem le_nearestEven {m n d : Nat} (hd : 0 < d) (h : m * d ≤ n) : m ≤ nearestEven n d := by
  have quotient : m ≤ n / d := (Nat.le_div_iff_mul_le hd).mpr h
  unfold nearestEven
  dsimp only
  split_ifs <;> omega

/-- A fraction at or above the middle between an odd number and the next is rounded up at least to the next. -/
theorem succ_le_nearestEven {m n d : Nat} (hd : 0 < d) (odd : m % 2 = 1) (h : (2 * m + 1) * d ≤ 2 * n) :
    m + 1 ≤ nearestEven n d := by
  rcases Nat.lt_or_ge n ((m + 1) * d) with below | above
  · have quotient : n / d = m := by
      have high : n / d < m + 1 := (Nat.div_lt_iff_lt_mul hd).mpr below
      have low : m ≤ n / d := (Nat.le_div_iff_mul_le hd).mpr (by linarith)
      omega
    have rest : d ≤ 2 * (n % d) := by
      have parts := Nat.div_add_mod n d
      rw [quotient] at parts
      linarith
    unfold nearestEven
    dsimp only
    split_ifs <;> omega
  · exact le_nearestEven hd above

/-- A fraction that is a whole number of its unit has that number as its significand. -/
theorem roundedSignificand_of_eq {num den m : Nat} (hden : 0 < den)
    (h : (num / den : ℚ) = m * 2 ^ unitExponent num den) : roundedSignificand num den = m := by
  have scaled : 0 < den * 2 ^ (unitExponent num den).toNat := by positivity
  have unit : (2 : ℚ) ^ unitExponent num den ≠ 0 := by positivity
  have whole : num * 2 ^ (-unitExponent num den).toNat = m * (den * 2 ^ (unitExponent num den).toNat) := by
    rw [← Nat.cast_inj (R := ℚ), Nat.cast_mul m, ← div_eq_iff (Nat.cast_ne_zero.mpr scaled.ne'), scaled_div, h,
      mul_div_cancel_right₀ _ unit]
  rw [roundedSignificand, whole, nearestEven_mul m scaled]

/-- A fraction of at least a whole number of its unit has at least that number as its significand. -/
theorem le_roundedSignificand {num den m : Nat} (hden : 0 < den)
    (h : m * 2 ^ unitExponent num den ≤ (num / den : ℚ)) : m ≤ roundedSignificand num den := by
  have scaled : 0 < den * 2 ^ (unitExponent num den).toNat := by positivity
  have unit : (0 : ℚ) < 2 ^ unitExponent num den := by positivity
  apply le_nearestEven scaled
  rw [← Nat.cast_le (α := ℚ), Nat.cast_mul m, ← le_div_iff₀ (Nat.cast_pos.mpr scaled), scaled_div,
    le_div_iff₀ unit]
  exact h

/-- And half a unit above an odd number of them, at least the next number. -/
theorem succ_le_roundedSignificand {num den m : Nat} (hden : 0 < den) (odd : m % 2 = 1)
    (h : (m + 1 / 2) * 2 ^ unitExponent num den ≤ (num / den : ℚ)) : m + 1 ≤ roundedSignificand num den := by
  have scaled : 0 < den * 2 ^ (unitExponent num den).toNat := by positivity
  have unit : (0 : ℚ) < 2 ^ unitExponent num den := by positivity
  rw [← le_div_iff₀ unit, ← scaled_div, le_div_iff₀ (Nat.cast_pos.mpr scaled)] at h
  apply succ_le_nearestEven scaled odd
  rw [← Nat.cast_le (α := ℚ), Nat.cast_mul, Nat.cast_mul 2]
  push_cast at h ⊢
  linarith

/-- A whole number of units of `2^(x - 1074)` has that unit, if the number is of at most 53 bits and has a leading 1 in
place 52 unless the unit is the least. -/
theorem unitExponent_of_eq {num den sig x : Nat} (hnum : 0 < num) (hden : 0 < den) (short : sig < 2 ^ 53)
    (leading : x = 0 ∨ 2 ^ 52 ≤ sig) (h : (num / den : ℚ) = sig * 2 ^ ((x : Int) - 1074)) :
    unitExponent num den = x - 1074 := by
  have fraction : (0 : ℚ) < num / den := by positivity
  have high : Int.log 2 (num / den : ℚ) < 53 + (x - 1074) := by
    refine (Int.lt_zpow_iff_log_lt one_lt_two fraction).mp ?_
    have bound : (sig : ℚ) < 2 ^ 53 := by exact_mod_cast short
    rw [h, Nat.cast_ofNat, zpow_add₀ two_ne_zero]
    exact mul_lt_mul_of_pos_right bound (by positivity)
  have low : x = 0 ∨ 52 + (x - 1074) ≤ Int.log 2 (num / den : ℚ) := by
    refine leading.imp_right fun one => (Int.zpow_le_iff_le_log one_lt_two fraction).mp ?_
    have bound : (2 : ℚ) ^ 52 ≤ sig := by exact_mod_cast one
    rw [h, Nat.cast_ofNat, zpow_add₀ two_ne_zero]
    exact mul_le_mul_of_nonneg_right bound (by positivity)
  rw [unitExponent, fractionLog2_eq hnum hden]
  omega

/-- Such a number is presented as itself above `x` times `2^52`, unless that is too large. -/
theorem binary64Magnitude_of_eq {num den sig x : Nat} (hden : 0 < den) (short : sig < 2 ^ 53)
    (leading : x = 0 ∨ 2 ^ 52 ≤ sig) (finite : x * 2 ^ 52 + sig ≤ 2047 * 2 ^ 52)
    (h : (num / den : ℚ) = sig * 2 ^ ((x : Int) - 1074)) :
    binary64Magnitude num den = x * 2 ^ 52 + sig := by
  rcases Nat.eq_zero_or_pos num with rfl | hnum
  · have zero : sig = 0 := by
      have unit : (2 : ℚ) ^ ((x : Int) - 1074) ≠ 0 := by positivity
      rw [Nat.cast_zero, zero_div, zero_eq_mul] at h
      exact Nat.cast_eq_zero.mp (h.resolve_right unit)
    rw [binary64Magnitude, if_pos rfl]
    omega
  · have unit := unitExponent_of_eq hnum hden short leading h
    have significand : roundedSignificand num den = sig := roundedSignificand_of_eq hden (unit ▸ h)
    rw [binary64Magnitude, if_neg hnum.ne', unit, significand, sub_add_cancel, Int.toNat_natCast, min_eq_left finite]

/-- The number of a finite pattern is a significand times a power of two, and both stand in its 63 low bits: the
mantissa field as it is where the exponent field is 0, and else with the leading 1, which is one step of the exponent
field (R80; log 14). -/
theorem binary64Units_eq (f : Operand) : ∃ sig x : Nat, binary64Units f = sig * 2 ^ x ∧ sig < 2 ^ 53 ∧
    (x = 0 ∨ 2 ^ 52 ≤ sig) ∧ (f.extractLsb' 0 63).toNat = x * 2 ^ 52 + sig := by
  have low : (f.extractLsb' 0 63).toNat = (exponentField f).toNat * 2 ^ 52 + (mantissaField f).toNat := by
    rw [← exponentField_append_mantissaField, toNat_append_eq_add]
  have mantissa := (mantissaField f).isLt
  rcases Nat.eq_zero_or_pos (exponentField f).toNat with subnormal | normal
  · refine ⟨(mantissaField f).toNat, 0, ?_, by omega, Or.inl rfl, ?_⟩
    · rw [binary64Units, if_pos subnormal, pow_zero, mul_one]
    · rw [low, subnormal]
  · refine ⟨(mantissaValue f).toNat, (exponentField f).toNat - 1, ?_, ?_⟩
    · rw [binary64Units, if_neg normal.ne']
    · rw [toNat_mantissaValue]
      omega

/-- The 63 low bits of a finite pattern are below those of infinity. -/
theorem low_lt_of_finite {f : Operand} (finite : (exponentField f).toNat ≠ 2047) :
    (f.extractLsb' 0 63).toNat < 2047 * 2 ^ 52 := by
  have exponent := (exponentField f).isLt
  have mantissa := (mantissaField f).isLt
  rw [← exponentField_append_mantissaField, toNat_append_eq_add]
  omega

/-- A fraction that is exactly a finite pattern's number has the pattern's 63 low bits. -/
theorem binary64Magnitude_of_exact {f : Operand} {num den : Nat} (finite : (exponentField f).toNat ≠ 2047)
    (hden : 0 < den) (value : num * 2 ^ 1074 = binary64Units f * den) :
    binary64Magnitude num den = (f.extractLsb' 0 63).toNat := by
  obtain ⟨sig, x, units, short, leading, low⟩ := binary64Units_eq f
  have bound := low_lt_of_finite finite
  have fraction : (num / den : ℚ) = sig * 2 ^ ((x : Int) - 1074) := by
    have equal := congrArg (Nat.cast : Nat → ℚ) value
    rw [units] at equal
    simp only [Nat.cast_mul, Nat.cast_pow, Nat.cast_ofNat] at equal
    rw [zpow_sub₀ two_ne_zero, ← mul_div_assoc, div_eq_div_iff (by positivity) (by positivity)]
    exact equal
  rw [low] at bound ⊢
  exact binary64Magnitude_of_eq hden short leading bound.le fraction

/-- A fraction whose unit stands 52 places below its leading bit has that bit in its significand. -/
theorem leading_one_le_roundedSignificand {num den : Nat} (hnum : 0 < num) (hden : 0 < den)
    (unit : unitExponent num den + 52 = Int.log 2 (num / den : ℚ)) : 2 ^ 52 ≤ roundedSignificand num den := by
  apply le_roundedSignificand hden
  calc ((2 ^ 52 : Nat) : ℚ) * 2 ^ unitExponent num den
    _ = 2 ^ (unitExponent num den + 52) := by
      rw [Nat.cast_pow, Nat.cast_ofNat, add_comm, zpow_add₀ two_ne_zero, zpow_ofNat]
    _ ≤ num / den := by
      rw [unit]
      exact Int.zpow_log_le_self one_lt_two (by positivity)

/-- The bound of overflow: `2^53` units of `2^971`, less half a unit. -/
theorem le_div_of_large {num den : Nat} (hden : 0 < den) (large : (2 ^ 54 - 1) * 2 ^ 970 * den ≤ num) :
    (((2 ^ 53 - 1 : Nat) : ℚ) + 1 / 2) * 2 ^ (971 : Int) ≤ num / den := by
  have halves : ((2 ^ 54 - 1 : Nat) : ℚ) = (((2 ^ 53 - 1 : Nat) : ℚ) + 1 / 2) * 2 := by norm_num
  have double : (2 : ℚ) ^ (971 : Int) = 2 ^ (970 : Int) * 2 := zpow_add_one₀ two_ne_zero 970
  rw [le_div_iff₀ (Nat.cast_pos.mpr hden), double, ← mul_assoc, mul_right_comm _ _ 2, ← halves, zpow_ofNat]
  simpa only [Nat.cast_mul, Nat.cast_pow, Nat.cast_ofNat] using (Nat.cast_le (α := ℚ)).mpr large

/-- A fraction half a unit above the greatest finite number, or more, has the magnitude of infinity: in the unit of that
number the significand is rounded up to `2^53`, and in a greater unit the leading 1 suffices. -/
theorem binary64Magnitude_of_large {num den : Nat} (hden : 0 < den) (large : (2 ^ 54 - 1) * 2 ^ 970 * den ≤ num) :
    binary64Magnitude num den = 2047 * 2 ^ 52 := by
  have hnum : 0 < num := lt_of_lt_of_le (by positivity) large
  have fraction := le_div_of_large hden large
  have log : 1023 ≤ Int.log 2 (num / den : ℚ) := by
    refine (Int.zpow_le_iff_le_log one_lt_two (by positivity)).mp (le_trans ?_ fraction)
    have leading : (2 : ℚ) ^ (1023 : Int) = 2 ^ 52 * 2 ^ (971 : Int) := zpow_add₀ two_ne_zero 52 971
    rw [Nat.cast_ofNat, leading]
    gcongr
    norm_num
  have unit : unitExponent num den + 52 = Int.log 2 (num / den : ℚ) := by
    rw [unitExponent, fractionLog2_eq hnum hden]
    omega
  have reaches : 2047 * 2 ^ 52 ≤ (unitExponent num den + 1074).toNat * 2 ^ 52 + roundedSignificand num den := by
    rcases log.eq_or_lt with least | greater
    · have greatestFinite : unitExponent num den = 971 := by omega
      have significand := succ_le_roundedSignificand hden (by decide) (greatestFinite ▸ fraction)
      omega
    · have significand := leading_one_le_roundedSignificand hnum hden unit
      omega
  rw [binary64Magnitude, if_neg hnum.ne', min_eq_right reaches]

/-- Settles O60: the sign and the magnitude of an exact value are the pattern's (`binary64Magnitude_of_exact`), and the
magnitude of a large one is infinity's (`binary64Magnitude_of_large`). -/
theorem exactValuesArePresentedAsTheirEncodings : Obligations.ExactValuesArePresentedAsTheirEncodings := by
  refine ⟨fun f num den finite hden value => ?_, fun negative num den hden large => ?_⟩
  · rw [binary64Pattern, binary64Magnitude_of_exact finite hden value, BitVec.ofNat_toNat, BitVec.setWidth_eq,
      ← signField_eq_ofBool]
    exact signField_append_low f
  · rw [binary64Pattern, binary64Magnitude_of_large hden large]
    rfl

end Sys2Proof.Machine
end

section
/-! The bit length (R100) and the numbers the truncation functions give (R102 to R104), by powers of two: a longer value
truncated to `n` bits has exactly `n` of them, so that only the carry out of `n` ones is truncated again. -/

namespace Sys2Proof.Machine

/-- A value is below the power of two of its bit length, 0 included. -/
theorem lt_two_pow_bitlen (v : Nat) : v < 2 ^ bitlen v := Nat.lt_log2_self

/-- The bit length of a positive value is the number `L` with `2^(L-1) ≤ v < 2^L` (R100). -/
theorem bitlen_eq_iff {v L : Nat} (hv : v ≠ 0) (hL : 1 ≤ L) : bitlen v = L ↔ 2 ^ (L - 1) ≤ v ∧ v < 2 ^ L := by
  rw [← lt_bitlen_iff hv, ← bitlen_le_iff hv]
  omega

/-- A power of two is the least value of its bit length. -/
theorem bitlen_two_pow (n : Nat) : bitlen (2 ^ n) = n + 1 := congrArg (· + 1) Nat.log2_two_pow

/-- Settles O29: `bitlen_eq_iff` gives the bounds and that no other length meets them. -/
theorem bitLengthIsTheUniqueBound : Obligations.BitLengthIsTheUniqueBound := by
  refine ⟨fun v hv => ?_, by decide, by decide, by decide, by decide, by decide, by decide, bitlen_two_pow 64⟩
  have hv : v ≠ 0 := Nat.one_le_iff_ne_zero.mp hv
  obtain ⟨low, high⟩ := (bitlen_eq_iff hv (bitlen_pos v)).mp rfl
  exact ⟨bitlen_pos v, congrArg (· + 1) Nat.log2_eq_log_two, low, high,
    fun L hL lowL highL => ((bitlen_eq_iff hv hL).mpr ⟨lowL, highL⟩).symm⟩

/-- LSB truncation of a longer value drops its trailing bits (R102). -/
theorem lsbt_of_lt_bitlen {v n : Nat} (h : n < bitlen v) : lsbt v n = v / 2 ^ (bitlen v - n) := if_pos h

/-- MSB truncation of a longer value drops its leading bits (R103). -/
theorem msbt_of_lt_bitlen {v n : Nat} (h : n < bitlen v) : msbt v n = v % 2 ^ n := if_pos h

/-- A value below `2^n` is no longer than a non-zero width `n`, 0 included. -/
theorem bitlen_le_of_lt_two_pow {v n : Nat} (hn : n ≠ 0) (h : v < 2 ^ n) : bitlen v ≤ n := by
  rcases eq_or_ne v 0 with rfl | hv
  · exact Nat.one_le_iff_ne_zero.mpr hn
  · exact (bitlen_le_iff hv n).mpr h

/-- LSB truncation of a longer value leaves its leading bit on top of the `n` it keeps. -/
theorem lsbt_bounds_of_lt_bitlen {v n : Nat} (hn : n ≠ 0) (longer : n < bitlen v) :
    2 ^ (n - 1) ≤ lsbt v n ∧ lsbt v n < 2 ^ n := by
  have hv : v ≠ 0 := by
    rintro rfl
    exact hn (Nat.lt_one_iff.mp longer)
  rw [lsbt_of_lt_bitlen longer, Nat.le_div_iff_mul_le (by positivity), Nat.div_lt_iff_lt_mul (by positivity),
    ← pow_add, ← pow_add, show n - 1 + (bitlen v - n) = bitlen v - 1 by omega,
    show n + (bitlen v - n) = bitlen v by omega]
  exact (bitlen_eq_iff hv (bitlen_pos v)).mp rfl

/-- LSB truncation gives a longer value exactly `n` bits (R107). -/
theorem bitlen_lsbt {v n : Nat} (hn : n ≠ 0) (longer : n < bitlen v) : bitlen (lsbt v n) = n := by
  obtain ⟨low, high⟩ := lsbt_bounds_of_lt_bitlen hn longer
  have positive : 0 < lsbt v n := (by positivity : 0 < 2 ^ (n - 1)).trans_le low
  exact (bitlen_eq_iff positive.ne' (Nat.one_le_iff_ne_zero.mpr hn)).mpr ⟨low, high⟩

/-- LSB truncation fits the width. -/
theorem lsbt_lt_two_pow (v : Nat) {n : Nat} (hn : n ≠ 0) : lsbt v n < 2 ^ n := by
  rcases Nat.lt_or_ge n (bitlen v) with longer | short
  · exact (lsbt_bounds_of_lt_bitlen hn longer).2
  · rw [lsbt_of_bitlen_le short]
    exact (lt_two_pow_bitlen v).trans_le (Nat.pow_le_pow_right two_pos short)

/-- `2^n` is one bit too long for the width `n`: LSB truncation halves it. -/
theorem lsbt_two_pow {n : Nat} (hn : n ≠ 0) : lsbt (2 ^ n) n = 2 ^ (n - 1) := by
  have length := bitlen_two_pow n
  rw [lsbt_of_lt_bitlen (by omega), length, show n + 1 - n = 1 by omega, Nat.pow_div (by omega) two_pos]

/-- The number after an `n`-bit prefix is truncated again only when the prefix is all ones (R104). -/
theorem lsbt_succ {p n : Nat} (hn : n ≠ 0) (hp : p < 2 ^ n) :
    lsbt (p + 1) n = if p = 2 ^ n - 1 then 2 ^ (n - 1) else p + 1 := by
  split_ifs with ones
  · rw [show p + 1 = 2 ^ n by omega, lsbt_two_pow hn]
  · exact lsbt_of_bitlen_le (bitlen_le_of_lt_two_pow hn (by omega))

/-- The first discarded bit is the one just below the kept prefix. -/
theorem firstDiscarded_eq_one_iff (v n : Nat) : firstDiscarded v n = 1 ↔ v.testBit (bitlen v - n - 1) = true := by
  rw [Nat.testBit_eq_decide_div_mod_eq, decide_eq_true_iff, firstDiscarded]

/-- Approximation of a longer value reads the first discarded bit alone: a 1 moves on to the number after the prefix,
which is truncated again (R104). -/
theorem lsbta_of_lt_bitlen {v n : Nat} (longer : n < bitlen v) :
    lsbta v n = if v.testBit (bitlen v - n - 1) then lsbt (lsbt v n + 1) n else lsbt v n := by
  rw [lsbta, if_neg (Nat.not_le.mpr longer), keptPrefix_eq_lsbt longer]
  simp only [firstDiscarded_eq_one_iff]

/-- Approximation fits the width. -/
theorem lsbta_lt_two_pow (v : Nat) {n : Nat} (hn : n ≠ 0) : lsbta v n < 2 ^ n := by
  rcases Nat.lt_or_ge n (bitlen v) with longer | short
  · rw [lsbta_of_lt_bitlen longer]
    split_ifs
    · exact lsbt_lt_two_pow _ hn
    · exact lsbt_lt_two_pow v hn
  · rw [lsbta_of_bitlen_le short, ← lsbt_of_bitlen_le short]
    exact lsbt_lt_two_pow v hn

end Sys2Proof.Machine
end

section
/-! The truncations read off the binary string (R102 to R104). -/

namespace Sys2Proof.Machine

/-- The binary string has one character per bit of the value. -/
@[simp] theorem length_binaryString (v : Nat) : (binaryString v).length = bitlen v := length_str _

/-- The number under the binary string is the value itself: it fits its own bit length. -/
theorem toNat_ofNat_bitlen (v : Nat) : (BitVec.ofNat (bitlen v) v).toNat = v := by
  rw [BitVec.toNat_ofNat, Nat.mod_eq_of_lt (lt_two_pow_bitlen v)]

/-- The binary string spells its value. -/
@[simp] theorem spell_binaryString (v : Nat) : spell (binaryString v) = v := by
  rw [binaryString, spell_str, toNat_ofNat_bitlen]

/-- Character `i` of the binary string is bit `bitlen v - 1 - i` of the value. -/
theorem getElem?_binaryString {v i : Nat} (hi : i < bitlen v) :
    (binaryString v)[i]? = some (if v.testBit (bitlen v - 1 - i) then '1' else '0') := by
  rw [binaryString, getElem?_str _ hi, ← BitVec.testBit_toNat, toNat_ofNat_bitlen]

/-- The binary string of a positive value has no leading zero. -/
theorem head?_binaryString {v : Nat} (hv : v ≠ 0) : (binaryString v).head? = some '1' := by
  have top : v.testBit (bitlen v - 1 - 0) = true := Nat.testBit_log2 hv
  rw [List.head?_eq_getElem?, getElem?_binaryString (bitlen_pos v), if_pos top]

/-- The first `n` characters spell the quotient of the value. -/
theorem spell_take_binaryString {v n : Nat} (h : n ≤ bitlen v) :
    spell ((binaryString v).take n) = v / 2 ^ (bitlen v - n) := by
  have slice := str_extractLsb' (start := bitlen v - n) (len := n) (BitVec.ofNat (bitlen v) v) (by omega)
  have fits : v / 2 ^ (bitlen v - n) < 2 ^ n := by
    rw [Nat.div_lt_iff_lt_mul (by positivity), ← pow_add, Nat.add_sub_cancel' h]
    exact lt_two_pow_bitlen v
  rw [Nat.sub_add_cancel h, Nat.sub_self, List.drop_zero] at slice
  rw [binaryString, ← slice, spell_str, BitVec.extractLsb'_toNat, toNat_ofNat_bitlen, Nat.shiftRight_eq_div_pow,
    Nat.mod_eq_of_lt fits]

/-- The last `n` characters spell the remainder of the value. -/
theorem spell_drop_binaryString {v n : Nat} (h : n ≤ bitlen v) :
    spell ((binaryString v).drop (bitlen v - n)) = v % 2 ^ n := by
  have slice := str_extractLsb' (start := 0) (len := n) (BitVec.ofNat (bitlen v) v) (by omega)
  have whole : ((binaryString v).drop (bitlen v - n)).length ≤ n := by
    rw [List.length_drop, length_binaryString, Nat.sub_sub_self h]
  rw [Nat.zero_add, ← binaryString, List.take_of_length_le whole] at slice
  rw [← slice, spell_str, BitVec.extractLsb'_toNat, toNat_ofNat_bitlen, Nat.shiftRight_zero]

/-- The character after the first `n` is the first discarded bit. -/
theorem getElem?_binaryString_discarded {v n : Nat} (h : n < bitlen v) :
    (binaryString v)[n]? = some (if v.testBit (bitlen v - n - 1) then '1' else '0') := by
  rw [getElem?_binaryString h, Nat.sub_right_comm]

/-- Settles O30: the first characters of the binary string spell the quotient, which is what LSB truncation gives. -/
theorem lsbTruncationKeepsTheLeadingBits : Obligations.LsbTruncationKeepsTheLeadingBits := by
  intro v n hv _
  refine ⟨fun longer => ⟨?_, lsbt_of_lt_bitlen longer⟩, lsbt_of_bitlen_le, length_binaryString v,
    head?_binaryString (Nat.one_le_iff_ne_zero.mp hv), spell_binaryString v⟩
  rw [lsbt_of_lt_bitlen longer, spell_take_binaryString longer.le]

/-- Settles O31: the last characters of the binary string spell the remainder, which is what MSB truncation gives. -/
theorem msbTruncationKeepsTheTrailingBits : Obligations.MsbTruncationKeepsTheTrailingBits := by
  intro v n hv _
  refine ⟨fun longer => ?_, msbt_of_bitlen_le, msbt_eq_mod (Nat.one_le_iff_ne_zero.mp hv) n⟩
  rw [msbt_of_lt_bitlen longer, spell_drop_binaryString longer.le]

/-- Settles O32: the character after the prefix is the first discarded bit; where it is 1, `lsbt_succ` says when the
number after the prefix is truncated again. -/
theorem approximationRoundsOnTheFirstDiscardedBit : Obligations.ApproximationRoundsOnTheFirstDiscardedBit := by
  intro v n _ hn
  refine ⟨lsbta_of_bitlen_le, fun longer char => ?_, fun longer char => ?_⟩
  · have d : v.testBit (bitlen v - n - 1) = false := by simpa [getElem?_binaryString_discarded longer] using char
    rw [lsbta_of_lt_bitlen longer, d, if_neg Bool.false_ne_true]
  · have d : v.testBit (bitlen v - n - 1) = true := by simpa [getElem?_binaryString_discarded longer] using char
    have hn : n ≠ 0 := Nat.one_le_iff_ne_zero.mp hn
    rw [lsbta_of_lt_bitlen longer, if_pos d, lsbt_succ hn (lsbt_lt_two_pow v hn)]

end Sys2Proof.Machine
end

section
/-! The laws of the truncation functions (R111). -/

namespace Sys2Proof.Machine

/-- A value exceeds the width exactly when LSB truncation changes it: what the width keeps is below `2^n`. -/
theorem lt_bitlen_iff_lsbt_ne {v n : Nat} (hv : v ≠ 0) (hn : n ≠ 0) : n < bitlen v ↔ lsbt v n ≠ v := by
  rw [lt_bitlen_iff hv]
  refine ⟨fun longer => ((lsbt_lt_two_pow v hn).trans_le longer).ne, fun changed => ?_⟩
  exact Nat.le_of_not_lt fun fits => changed (lsbt_of_bitlen_le (bitlen_le_of_lt_two_pow hn fits))

/-- MSB truncation fits the width. -/
theorem msbt_lt_two_pow {v : Nat} (hv : v ≠ 0) (n : Nat) : msbt v n < 2 ^ n :=
  msbt_eq_mod hv n ▸ Nat.mod_lt v (by positivity)

/-- A value exceeds the width exactly when MSB truncation changes it. -/
theorem lt_bitlen_iff_msbt_ne {v : Nat} (hv : v ≠ 0) (n : Nat) : n < bitlen v ↔ msbt v n ≠ v := by
  rw [lt_bitlen_iff hv]
  refine ⟨fun longer => ((msbt_lt_two_pow hv n).trans_le longer).ne, fun changed => ?_⟩
  exact Nat.le_of_not_lt fun fits => changed (msbt_of_bitlen_le ((bitlen_le_iff hv n).mpr fits))

/-- Approximation adds at most one to LSB truncation, but for the carry out of `n` ones (R111, law 7). -/
theorem lsbta_cases (v : Nat) {n : Nat} (hn : n ≠ 0) :
    lsbta v n = lsbt v n ∨ lsbta v n = lsbt v n + 1 ∨ (lsbt v n = 2 ^ n - 1 ∧ lsbta v n = 2 ^ (n - 1)) := by
  rcases Nat.lt_or_ge n (bitlen v) with longer | short
  · rw [lsbta_of_lt_bitlen longer, lsbt_succ hn (lsbt_lt_two_pow v hn)]
    split_ifs with up ones
    · exact .inr (.inr ⟨ones, rfl⟩)
    · exact .inr (.inl rfl)
    · exact .inl rfl
  · exact .inl ((lsbta_of_bitlen_le short).trans (lsbt_of_bitlen_le short).symm)

/-- Settles O33: each truncation fits the width, and what the width holds is kept; law 7 is `lsbta_cases`. -/
theorem truncationLaws : Obligations.TruncationLaws := by
  intro a n ha hn
  have ha : a ≠ 0 := Nat.one_le_iff_ne_zero.mp ha
  have hn : n ≠ 0 := Nat.one_le_iff_ne_zero.mp hn
  have leading : lsbt a n < 2 ^ n := lsbt_lt_two_pow a hn
  have trailing : msbt a n < 2 ^ n := msbt_lt_two_pow ha n
  have rounded : lsbta a n < 2 ^ n := lsbta_lt_two_pow a hn
  refine ⟨fun short => ⟨lsbt_of_bitlen_le short, msbt_of_bitlen_le short⟩, msbt_of_lt_bitlen,
    ⟨leading, trailing, rounded⟩, ⟨lt_bitlen_iff_lsbt_ne ha hn, lt_bitlen_iff_msbt_ne ha n⟩,
    fun longer => ⟨bitlen_lsbt hn longer, (lsbt_bounds_of_lt_bitlen hn longer).1⟩, ?_,
    ⟨lsbt_of_bitlen_le (bitlen_le_of_lt_two_pow hn leading), lsbta_of_bitlen_le (bitlen_le_of_lt_two_pow hn rounded),
      fun _ => msbt_of_bitlen_le (bitlen_le_of_lt_two_pow hn trailing)⟩, fun fits wide => ?_⟩
  · rcases lsbta_cases a hn with plain | up | carry
    · exact .inl (by omega)
    · exact .inl (by omega)
    · exact .inr carry
  · have short : bitlen a ≤ 64 := (bitlen_le_iff ha 64).mpr fits
    have keeps : bitlen a ≤ n := short.trans wide
    exact ⟨short, lsbt_of_bitlen_le keeps, msbt_of_bitlen_le keeps, lsbta_of_bitlen_le keeps⟩

end Sys2Proof.Machine
end

section
/-! The WidthTruncator operations as the block answers them (R101, R105 to R110): the responses of the two checks, and
the numbers the results carry. -/

namespace Sys2Proof.Machine

/-- A non-zero operand stands for a non-zero number. -/
theorem toNat_ne_zero {k : Nat} {v : BitVec k} (hv : v ≠ 0) : v.toNat ≠ 0 := BitVec.toNat_ne_iff_ne.mpr hv

/-- A result of a non-zero value passes the value check. -/
theorem checkedResponse_of_ne {v : Nat} (hv : v ≠ 0) (x : Result) : checkedResponse v x = .result x := if_neg hv

/-- A non-zero value and a non-zero width pass the checks of a truncating operation. -/
theorem truncatedResponse_of_ne (policy : Nat → Nat → Nat) {v n : Nat} (hv : v ≠ 0) (hn : n ≠ 0) :
    truncatedResponse policy v n = .result (unsignedResult (policy v n)) :=
  (if_neg hv).trans (if_neg hn)

/-- The value check answers `DOMAIN_VALUE` exactly for the value 0 (R101). -/
@[simp] theorem checkedResponse_eq_domainValue_iff (v : Nat) (x : Result) :
    checkedResponse v x = .error .domainValue ↔ v = 0 := by
  unfold checkedResponse
  split_ifs with hv <;> simp [hv]

/-- The value check never answers `DOMAIN_WIDTH`. -/
@[simp] theorem checkedResponse_ne_domainWidth (v : Nat) (x : Result) :
    checkedResponse v x ≠ .error .domainWidth := by
  unfold checkedResponse
  split_ifs <;> simp

/-- A truncating operation answers `DOMAIN_VALUE` exactly for the value 0 (R101). -/
@[simp] theorem truncatedResponse_eq_domainValue_iff (policy : Nat → Nat → Nat) (v n : Nat) :
    truncatedResponse policy v n = .error .domainValue ↔ v = 0 := by
  unfold truncatedResponse
  split_ifs with hv <;> simp [hv]

/-- A truncating operation answers `DOMAIN_WIDTH` exactly for a non-zero value and the width 0 (R110). -/
@[simp] theorem truncatedResponse_eq_domainWidth_iff (policy : Nat → Nat → Nat) (v n : Nat) :
    truncatedResponse policy v n = .error .domainWidth ↔ v ≠ 0 ∧ n = 0 := by
  unfold truncatedResponse
  split_ifs with hv hn
  · simp [hv]
  · simp [hv, hn]
  · simp [hn]

/-- The bit length of an operand is at most 64. -/
theorem bitlen_toNat_le {a : Operand} (ha : a ≠ 0) : bitlen a.toNat ≤ 64 :=
  (bitlen_le_iff (toNat_ne_zero ha) 64).mpr a.isLt

/-- `res` carries the bit length of an operand. -/
theorem toNat_unsignedResult_bitlen {a : Operand} (ha : a ≠ 0) :
    (unsignedResult (bitlen a.toNat)).toNat = bitlen a.toNat :=
  toNat_unsignedResult ((bitlen_toNat_le ha).trans_lt (by decide))

/-- `res` carries what a policy that does not increase its value makes of an operand. -/
theorem toNat_unsignedResult_policy {policy : Nat → Nat → Nat} {a : Operand} {n : Nat}
    (le : policy a.toNat n ≤ a.toNat) : (unsignedResult (policy a.toNat n)).toNat = policy a.toNat n :=
  toNat_unsignedResult ((le.trans_lt a.isLt).trans (by decide))

/-- `res` carries a truth value as 1 or 0 (R106). -/
theorem boolResult_eq_ite (p : Prop) [Decidable p] : boolResult (decide p) = if p then 1 else 0 := by
  by_cases h : p
  · rw [if_pos h, decide_eq_true h]
    rfl
  · rw [if_neg h, decide_eq_false h]
    rfl

/-- What `ISOVF` of a non-zero operand answers. -/
theorem instrResponse_isovf {a : Operand} (ha : a ≠ 0) (n : WidthField) :
    instrResponse (.isovf n a) = .result (if bitlen a.toNat > n.toNat then 1 else 0) := by
  rw [instrResponse, checkedResponse_of_ne (toNat_ne_zero ha), boolResult_eq_ite]

/-- `ISOVF` of a non-zero operand at the width 0 answers 1: every bit length is positive (R106, R110). -/
theorem instrResponse_isovf_zero {a : Operand} (ha : a ≠ 0) : instrResponse (.isovf 0 a) = .result 1 :=
  (instrResponse_isovf ha 0).trans (congrArg Response.result (if_pos (bitlen_pos _)))

/-- Settles O34: the three comparisons of `ISOVF`, read off the numbers the four results carry. -/
theorem overflowAgreesWithTruncation : Obligations.OverflowAgreesWithTruncation := by
  intro n a s ha hn
  have value : a.toNat ≠ 0 := toNat_ne_zero ha
  have width : n.toNat ≠ 0 := toNat_ne_zero hn
  have flag : (if bitlen a.toNat > n.toNat then 1 else 0 : Result) = 1 ↔ n.toNat < bitlen a.toNat := by
    split_ifs with longer <;> simp [longer]
  simp only [exec_eq, next_answer_inj]
  refine ⟨_, _, _, _, instrResponse_isovf ha n, checkedResponse_of_ne value _,
    truncatedResponse_of_ne lsbt value width, truncatedResponse_of_ne msbt value width, ite_eq_or_eq _ _ _, ?_, ?_, ?_⟩
  · rw [flag, toNat_unsignedResult_bitlen ha]
  · rw [flag, toNat_unsignedResult_policy (lsbt_le _ _), lt_bitlen_iff_lsbt_ne value width]
  · rw [flag, toNat_unsignedResult_policy (msbt_le _ _), lt_bitlen_iff_msbt_ne value]

/-- Settles O35: the value check, and the bounds of the bit length. -/
theorem bitlenReturnsTheBitLength : Obligations.BitlenReturnsTheBitLength := by
  intro a s
  simp only [exec_eq, next_answer_inj]
  refine ⟨fun ha => (checkedResponse_eq_domainValue_iff _ _).mpr (congrArg BitVec.toNat ha), fun ha => ?_⟩
  have value : a.toNat ≠ 0 := toNat_ne_zero ha
  refine ⟨_, checkedResponse_of_ne value _, ?_⟩
  rw [toNat_unsignedResult_bitlen ha]
  exact ⟨bitlen_pos _, bitlen_toNat_le ha, (bitlen_eq_iff value (bitlen_pos _)).mp rfl⟩

/-- Settles O36: a bit length is positive, at most 64, and exceeds `n` exactly for a number from `2^n` up. -/
theorem isovfComparesTheBitLength : Obligations.IsovfComparesTheBitLength := by
  intro n a s
  simp only [exec_eq, next_answer_inj]
  refine ⟨fun ha => (checkedResponse_eq_domainValue_iff _ _).mpr (congrArg BitVec.toNat ha),
    fun ha => instrResponse_isovf ha n, fun ha hn => hn ▸ instrResponse_isovf_zero ha, fun ha wide => ?_,
    fun ha => lt_bitlen_iff (toNat_ne_zero ha) _⟩
  rw [instrResponse_isovf ha, if_neg (Nat.not_lt.mpr ((bitlen_toNat_le ha).trans wide))]

/-- The two errors of a truncating operation on one operand, and its result for a policy that does not increase its
value (R107 to R109). -/
theorem truncatedResponse_operand {policy : Nat → Nat → Nat} (le : ∀ v n, v ≠ 0 → policy v n ≤ v)
    (n : WidthField) (a : Operand) :
    (a = 0 → truncatedResponse policy a.toNat n.toNat = .error .domainValue) ∧
    (a ≠ 0 → n = 0 → truncatedResponse policy a.toNat n.toNat = .error .domainWidth) ∧
    (a ≠ 0 → n ≠ 0 → ∃ x : Result, truncatedResponse policy a.toNat n.toNat = .result x ∧
      x.toNat = policy a.toNat n.toNat) := by
  refine ⟨?_, ?_, fun ha hn => ?_⟩
  · rintro rfl
    exact (truncatedResponse_eq_domainValue_iff _ _ _).mpr rfl
  · rintro ha rfl
    exact (truncatedResponse_eq_domainWidth_iff _ _ _).mpr ⟨toNat_ne_zero ha, rfl⟩
  · exact ⟨_, truncatedResponse_of_ne policy (toNat_ne_zero ha) (toNat_ne_zero hn),
      toNat_unsignedResult_policy (le _ _ (toNat_ne_zero ha))⟩

/-- A result with the operand's number is the operand, extended with zeros. -/
theorem eq_setWidth_of_toNat_eq {x : Result} {a : Operand} (h : x.toNat = a.toNat) : x = a.setWidth 128 :=
  BitVec.eq_of_toNat_eq (h.trans (BitVec.toNat_setWidth_of_le (by decide)).symm)

/-- Settles O37: the number of the result is `lsbt`, which is positive, keeps what fits, and has `n` bits otherwise. -/
theorem lsbtTruncatesItsOperand : Obligations.LsbtTruncatesItsOperand := by
  intro n a s
  simp only [exec_eq, next_answer_inj]
  obtain ⟨zeroValue, zeroWidth, result⟩ := truncatedResponse_operand (policy := lsbt) (fun v n _ => lsbt_le v n) n a
  refine ⟨zeroValue, zeroWidth, fun ha hn => ?_⟩
  have value : a.toNat ≠ 0 := toNat_ne_zero ha
  have width : n.toNat ≠ 0 := toNat_ne_zero hn
  obtain ⟨x, answer, number⟩ := result ha hn
  have kept (short : bitlen a.toNat ≤ n.toNat) : x = a.setWidth 128 :=
    eq_setWidth_of_toNat_eq (number.trans (lsbt_of_bitlen_le short))
  have positive : 0 < lsbt a.toNat n.toNat := lsbt_pos value width
  refine ⟨x, answer, number, ?_, kept, fun wide => kept ((bitlen_toNat_le ha).trans wide), ?_,
    fun longer => number ▸ bitlen_lsbt width longer⟩
  · rintro rfl
    exact positive.ne number
  · rintro rfl
    have single : lsbt a.toNat 1 < 2 ^ 1 := lsbt_lt_two_pow a.toNat one_ne_zero
    exact BitVec.eq_of_toNat_eq (number.trans (Nat.le_antisymm (Nat.le_of_lt_succ single) positive))

/-- The remainder by a power of two is 0 exactly when every bit below it is. -/
theorem mod_two_pow_eq_zero_iff (v n : Nat) : v % 2 ^ n = 0 ↔ ∀ j, j < n → v.testBit j = false := by
  constructor
  · intro h j hj
    have bit : (v % 2 ^ n).testBit j = v.testBit j := by simp [hj]
    rw [← bit, h, Nat.zero_testBit]
  · intro h
    refine Nat.zero_of_testBit_eq_false fun j => ?_
    rw [Nat.testBit_mod_two_pow]
    by_cases hj : j < n
    · simp [h j hj]
    · simp [hj]

/-- Settles O38: the number of the result is the remainder; it is 0 when the bits below `n` are, and the operand, not
being 0 itself, is then longer. -/
theorem msbtTruncatesItsOperand : Obligations.MsbtTruncatesItsOperand := by
  intro n a s
  simp only [exec_eq, next_answer_inj]
  obtain ⟨zeroValue, zeroWidth, result⟩ := truncatedResponse_operand (policy := msbt) (fun v n _ => msbt_le v n) n a
  refine ⟨zeroValue, zeroWidth, fun ha hn => ?_⟩
  have value : a.toNat ≠ 0 := toNat_ne_zero ha
  obtain ⟨x, answer, number⟩ := result ha hn
  have remainder : x.toNat = a.toNat % 2 ^ n.toNat := number.trans (msbt_eq_mod value _)
  refine ⟨x, answer, number, remainder,
    fun short => eq_setWidth_of_toNat_eq (number.trans (msbt_of_bitlen_le short)), ?_⟩
  have zero_iff : x = 0 ↔ ∀ j, j < n.toNat → a.getLsbD j = false :=
    calc x = 0
      _ ↔ a.toNat % 2 ^ n.toNat = 0 := by rw [← BitVec.toNat_inj, remainder]; rfl
      _ ↔ ∀ j, j < n.toNat → a.getLsbD j = false := mod_two_pow_eq_zero_iff a.toNat n.toNat
  have longer (hx : x = 0) : n.toNat < bitlen a.toNat := by
    rw [lt_bitlen_iff_msbt_ne value, ← number, hx]
    exact value.symm
  exact ⟨fun hx => ⟨longer hx, zero_iff.mp hx⟩, fun ⟨_, low⟩ => zero_iff.mpr low⟩

/-- Settles O39: the number of the result is `lsbta`, whose branches are `lsbta_of_lt_bitlen`. -/
theorem lsbtaTruncatesItsOperand : Obligations.LsbtaTruncatesItsOperand := by
  intro n a s
  simp only [exec_eq, next_answer_inj]
  obtain ⟨zeroValue, zeroWidth, result⟩ := truncatedResponse_operand (policy := lsbta) (fun _ n hv => lsbta_le hv n) n a
  refine ⟨zeroValue, zeroWidth, fun ha hn => ?_⟩
  obtain ⟨x, answer, number⟩ := result ha hn
  refine ⟨x, answer, number, fun short => eq_setWidth_of_toNat_eq (number.trans (lsbta_of_bitlen_le short)), ?_, ?_⟩
  · intro longer discarded
    rw [number, lsbta_of_lt_bitlen longer, BitVec.testBit_toNat, discarded, if_neg Bool.false_ne_true]
  · intro longer discarded
    rw [number, lsbta_of_lt_bitlen longer, BitVec.testBit_toNat, if_pos discarded]

/-- An instruction answers `DOMAIN_VALUE` exactly when the value it checks is 0 (R101, R151). -/
theorem instrResponse_eq_domainValue_iff (i : Instr) :
    instrResponse i = .error .domainValue ↔ i.checkedValue = some 0 := by
  cases i <;> simp [instrResponse, Instr.checkedValue]

/-- Settles O40: the value that each of the listed instructions checks is 0, a sum of zeros or a product with a zero
factor. -/
theorem zeroValueIsADomainError : Obligations.ZeroValueIsADomainError := by
  intro n b s i hi
  rw [exec_eq, next_answer_inj, instrResponse_eq_domainValue_iff]
  revert i
  simp [Instr.checkedValue]

/-- An instruction answers `DOMAIN_WIDTH` exactly when it truncates to the width 0 a value other than 0 (R110, R151). -/
theorem instrResponse_eq_domainWidth_iff (i : Instr) :
    instrResponse i = .error .domainWidth ↔ i.checkedValue ≠ some 0 ∧ i.truncationWidth = some 0 := by
  cases i <;> simp [instrResponse, Instr.checkedValue, Instr.truncationWidth]

/-- The instructions with a truncation width are those of the seven truncating operations (R110). -/
theorem op_mem_of_truncationWidth {i : Instr} {n : Nat} (h : i.truncationWidth = some n) :
    i.op ∈ [Op.lsbt, .msbt, .lsbta, .addlt, .mullt, .addmt, .mulmt] := by
  cases i <;> simp_all [Instr.truncationWidth, Instr.op]

/-- Settles O41: which of the two domain errors an instruction answers is read off its checked value and its truncation
width (`instrResponse_eq_domainValue_iff`, `instrResponse_eq_domainWidth_iff`). -/
theorem zeroWidthIsADomainError : Obligations.ZeroWidthIsADomainError := by
  intro a b s
  simp only [exec_eq, next_answer_inj, List.forall_mem_cons, List.not_mem_nil, false_imp_iff, implies_true, and_true,
    instrResponse_eq_domainValue_iff, instrResponse_eq_domainWidth_iff]
  have accepted {v : Nat} (hv : v ≠ 0) : some v ≠ some 0 ∧ some (0 : WidthField).toNat = some 0 :=
    ⟨fun h => hv (Option.some.inj h), rfl⟩
  refine ⟨fun ha => ?_, fun hv => ?_, fun hv => ?_, ?_, fun i h => ?_, instrResponse_isovf_zero,
    fun n => decode_commandWord .bitlen n a b⟩
  · have operand := accepted (toNat_ne_zero ha)
    exact ⟨operand, operand, operand⟩
  · exact ⟨accepted hv, accepted hv⟩
  · exact ⟨accepted hv, accepted hv⟩
  · simp [Instr.checkedValue]
  · obtain ⟨-, width⟩ := h
    exact ⟨op_mem_of_truncationWidth width, width⟩

end Sys2Proof.Machine
end

section
/-! The width-aware operations as the block answers them (R120 to R126): the two checks and the policy, on an exact sum
or product that `res` has room for. -/

namespace Sys2Proof.Machine

/-- A sum of two operands is 0 exactly when both are (R126). -/
theorem both_zero_iff (a b : Operand) : a = 0 ∧ b = 0 ↔ a.toNat + b.toNat = 0 := by
  rw [Nat.add_eq_zero_iff, ← BitVec.toNat_inj, ← BitVec.toNat_inj]
  rfl

/-- A product of two operands is 0 exactly when one of them is (R126). -/
theorem either_zero_iff (a b : Operand) : a = 0 ∨ b = 0 ↔ a.toNat * b.toNat = 0 := by
  rw [Nat.mul_eq_zero, ← BitVec.toNat_inj, ← BitVec.toNat_inj]
  rfl

/-- `res` has room for the exact sum (R120). -/
theorem sum_lt (a b : Operand) : a.toNat + b.toNat < 2 ^ 128 := (toNat_add_toNat_le a b).trans_lt (by decide)

/-- `res` has room for the exact product (R120). -/
theorem product_lt (a b : Operand) : a.toNat * b.toNat < 2 ^ 128 := (toNat_mul_toNat_le a b).trans_lt (by decide)

/-- The exact sum has at most 65 bits (R120). -/
theorem bitlen_sum_le (a b : Operand) : bitlen (a.toNat + b.toNat) ≤ 65 :=
  bitlen_le_of_lt_two_pow (by decide) ((toNat_add_toNat_le a b).trans_lt (by decide))

/-- The exact product has at most 128 bits (R120). -/
theorem bitlen_product_le (a b : Operand) : bitlen (a.toNat * b.toNat) ≤ 128 :=
  bitlen_le_of_lt_two_pow (by decide) (product_lt a b)

/-- The two errors of a truncating operation on a value that `res` has room for, and its result for a policy that does
not increase the value (R121 to R124). -/
theorem truncatedResponse_exact {policy : Nat → Nat → Nat} (le : ∀ v n, policy v n ≤ v) {v : Nat} (room : v < 2 ^ 128)
    (n : WidthField) :
    (v = 0 → truncatedResponse policy v n.toNat = .error .domainValue) ∧
    (v ≠ 0 → n = 0 → truncatedResponse policy v n.toNat = .error .domainWidth) ∧
    (v ≠ 0 → n ≠ 0 → ∃ x : Result, truncatedResponse policy v n.toNat = .result x ∧ x.toNat = policy v n.toNat) := by
  refine ⟨(truncatedResponse_eq_domainValue_iff _ _ _).mpr, fun hv hn => ?_, fun hv hn => ?_⟩
  · exact (truncatedResponse_eq_domainWidth_iff _ _ _).mpr ⟨hv, congrArg BitVec.toNat hn⟩
  · exact ⟨_, truncatedResponse_of_ne policy hv (toNat_ne_zero hn), toNat_unsignedResult ((le v _).trans_lt room)⟩

/-- Settles O42: the checks and the result are `truncatedResponse_exact` at the exact sum. -/
theorem addltTruncatesTheExactSum : Obligations.AddltTruncatesTheExactSum := by
  intro n a b s
  simp only [exec_eq, next_answer_inj, both_zero_iff, instrResponse]
  obtain ⟨zeroValue, zeroWidth, result⟩ := truncatedResponse_exact lsbt_le (sum_lt a b) n
  refine ⟨zeroValue, zeroWidth, fun value hn => ?_, by rw [Nat.add_comm]⟩
  obtain ⟨x, answer, number⟩ := result value hn
  exact ⟨x, answer, number, fun short => number.trans (lsbt_of_bitlen_le short)⟩

/-- Settles O43: the checks and the result are `truncatedResponse_exact` at the exact product. -/
theorem mulltTruncatesTheExactProduct : Obligations.MulltTruncatesTheExactProduct := by
  intro n a b s
  simp only [exec_eq, next_answer_inj, either_zero_iff, instrResponse]
  obtain ⟨zeroValue, zeroWidth, result⟩ := truncatedResponse_exact lsbt_le (product_lt a b) n
  refine ⟨zeroValue, zeroWidth, fun value hn => ?_, by rw [Nat.mul_comm]⟩
  obtain ⟨x, answer, number⟩ := result value hn
  refine ⟨x, answer, number, fun short => number.trans (lsbt_of_bitlen_le short), ?_⟩
  rintro rfl
  exact number.trans (congrArg (lsbt · n.toNat) (Nat.mul_one a.toNat))

/-- Settles O44: MSB truncation of the exact sum is its remainder, and 65 bits hold the whole sum. -/
theorem addmtWrapsTheExactSum : Obligations.AddmtWrapsTheExactSum := by
  intro n a b s
  simp only [exec_eq, next_answer_inj, both_zero_iff, instrResponse]
  obtain ⟨zeroValue, zeroWidth, result⟩ := truncatedResponse_exact msbt_le (sum_lt a b) n
  refine ⟨zeroValue, zeroWidth, fun value hn => ?_⟩
  obtain ⟨x, answer, number⟩ := result value hn
  exact ⟨x, answer, number, number.trans (msbt_eq_mod value _),
    fun wide => number.trans (msbt_of_bitlen_le ((bitlen_sum_le a b).trans wide))⟩

/-- Settles O45: MSB truncation of the exact product is its remainder, and 128 bits hold the whole product. -/
theorem mulmtWrapsTheExactProduct : Obligations.MulmtWrapsTheExactProduct := by
  refine ⟨fun n a b s => ?_, fun s => ?_⟩
  · simp only [exec_eq, next_answer_inj, either_zero_iff, instrResponse]
    obtain ⟨zeroValue, zeroWidth, result⟩ := truncatedResponse_exact msbt_le (product_lt a b) n
    refine ⟨zeroValue, zeroWidth, fun value hn => ?_⟩
    obtain ⟨x, answer, number⟩ := result value hn
    exact ⟨x, answer, number, number.trans (msbt_eq_mod value _),
      fun wide => number.trans (msbt_of_bitlen_le ((bitlen_product_le a b).trans wide))⟩
  · rw [exec_eq, next_answer_inj]
    decide

/-- MSB truncation of an exact sum to 64 bits is the 64-bit sum, extended with zeros (R120). -/
theorem unsignedResult_msbt_sum_64 {a b : Operand} (value : a.toNat + b.toNat ≠ 0) :
    unsignedResult (msbt (a.toNat + b.toNat) 64) = (a + b).setWidth 128 := by
  rw [msbt_eq_mod value, ← BitVec.toNat_add, unsignedResult, BitVec.ofNat_toNat]

/-- Settles O46: neither policy increases a value, so that `res` has room for what it makes of a sum or product. -/
theorem sumsAndProductsAreExact : Obligations.SumsAndProductsAreExact := by
  refine ⟨fun a b => ?_, fun a b s operands => ?_⟩
  · have lossless {v : Nat} (n : Nat) (room : v < 2 ^ 128) :
        (unsignedResult (lsbt v n)).toNat = lsbt v n ∧ (unsignedResult (msbt v n)).toNat = msbt v n :=
      ⟨toNat_unsignedResult ((lsbt_le v n).trans_lt room), toNat_unsignedResult ((msbt_le v n).trans_lt room)⟩
    refine ⟨toNat_add_toNat_le a b, bitlen_sum_le a b, toNat_mul_toNat_le a b, bitlen_product_le a b, fun n => ?_⟩
    simp only [List.forall_mem_cons, List.not_mem_nil, false_imp_iff, implies_true, and_true]
    exact ⟨lossless n (sum_lt a b), lossless n (product_lt a b)⟩
  · have value : a.toNat + b.toNat ≠ 0 := (both_zero_iff a b).not.mp operands
    rw [exec_eq, next_answer_inj, ← unsignedResult_msbt_sum_64 value]
    exact truncatedResponse_of_ne msbt value (by decide)

/-- Settles O47: a sum with one zero operand is the other operand, which passes both checks; a sum of zeros and a
product with a zero factor are 0. -/
theorem preconditionsFallOnTheSumOrProduct : Obligations.PreconditionsFallOnTheSumOrProduct := by
  intro n b s hb hn
  have accepted (policy : Nat → Nat → Nat) :
      truncatedResponse policy b.toNat n.toNat = .result (unsignedResult (policy b.toNat n.toNat)) :=
    truncatedResponse_of_ne policy (toNat_ne_zero hb) (toNat_ne_zero hn)
  have refused (policy : Nat → Nat → Nat) : truncatedResponse policy 0 n.toNat = .error .domainValue :=
    (truncatedResponse_eq_domainValue_iff _ _ _).mpr rfl
  have zero : (0 : Operand).toNat = 0 := rfl
  simp only [exec_eq, next_answer_inj, List.forall_mem_cons, List.not_mem_nil, false_imp_iff, implies_true, and_true,
    instrResponse, zero, Nat.zero_add, Nat.add_zero, Nat.zero_mul, Nat.mul_zero]
  exact ⟨accepted lsbt, accepted lsbt, accepted msbt, accepted msbt, refused lsbt, refused msbt,
    refused lsbt, refused lsbt, refused msbt, refused msbt⟩

/-- MSB truncation of a sum is the sum of the truncations modulo `2^n` (R125). -/
theorem msbt_add {v w : Nat} (hv : v ≠ 0) (hw : w ≠ 0) (n : Nat) :
    msbt (v + w) n = (msbt v n + msbt w n) % 2 ^ n := by
  rw [msbt_eq_mod hv, msbt_eq_mod hw, msbt_eq_mod (by omega), Nat.add_mod]

/-- MSB truncation of a product is the product of the truncations modulo `2^n` (R125). -/
theorem msbt_mul {v w : Nat} (hv : v ≠ 0) (hw : w ≠ 0) (n : Nat) :
    msbt (v * w) n = msbt v n * msbt w n % 2 ^ n := by
  rw [msbt_eq_mod hv, msbt_eq_mod hw, msbt_eq_mod (Nat.mul_ne_zero hv hw), Nat.mul_mod]

/-- Settles O48: at width 2 the LSB-policy addition keeps `(3 + 1) + 1` as 3 and `3 + (1 + 1)` as 2; and `4 + 1` is 3
when 4 is truncated before the addition, 2 when only the sum is. -/
theorem arithmeticLaws : Obligations.ArithmeticLaws := by
  refine ⟨fun n a b s => ?_, fun v w n hv hw hn => ?_, ⟨3, 1, 1, 2, by decide⟩, ⟨4, 1, 2, by decide⟩⟩
  · simp only [exec_eq, instrResponse, Nat.add_comm b.toNat, Nat.mul_comm b.toNat, and_true]
  · have hv : v ≠ 0 := Nat.one_le_iff_ne_zero.mp hv
    have hw : w ≠ 0 := Nat.one_le_iff_ne_zero.mp hw
    have hn : n ≠ 0 := Nat.one_le_iff_ne_zero.mp hn
    exact ⟨msbt_add hv hw n, msbt_mul hv hw n, Nat.one_le_iff_ne_zero.mp (lsbt_pos hv hn)⟩

end Sys2Proof.Machine
end

section
/-! The binary-string validator (R138): its three outcomes, each on its own class of texts. -/

namespace Sys2Proof.Machine

/-- What the validator answers on a binary string. -/
theorem binToUint_of_binary {t : Text} (nonempty : t ≠ []) (binary : ∀ c ∈ t, c = '0' ∨ c = '1') :
    binToUint t = .next (spell t) := by
  have valid : (t.all fun c => c == '0' || c == '1') = true := by simpa using binary
  rw [binToUint, if_neg nonempty, if_pos valid]

/-- What the validator answers on a text with a character other than `0` and `1`. -/
theorem binToUint_of_invalid {t : Text} (invalid : ∃ c ∈ t, c ≠ '0' ∧ c ≠ '1') :
    binToUint t = .fault .formatError := by
  have nonempty : t ≠ [] := by
    rintro rfl
    simp at invalid
  have notValid : ¬(t.all fun c => c == '0' || c == '1') = true := by simpa using invalid
  rw [binToUint, if_neg nonempty, if_neg notValid]

/-- The texts fall into the validator's three classes. -/
theorem nil_or_binary_or_invalid (t : Text) :
    t = [] ∨ (t ≠ [] ∧ ∀ c ∈ t, c = '0' ∨ c = '1') ∨ ∃ c ∈ t, c ≠ '0' ∧ c ≠ '1' := by
  by_cases invalid : ∃ c ∈ t, c ≠ '0' ∧ c ≠ '1'
  · exact .inr (.inr invalid)
  · have binary : ∀ c ∈ t, c = '0' ∨ c = '1' := by
      push Not at invalid
      exact fun c hc => or_iff_not_imp_left.mpr (invalid c hc)
    exact (eq_or_ne t []).imp_right fun nonempty => .inl ⟨nonempty, binary⟩

/-- `FormatError` is raised on invalid texts alone (R138, R160). -/
theorem binToUint_eq_formatError_iff (t : Text) :
    binToUint t = .fault .formatError ↔ ∃ c ∈ t, c ≠ '0' ∧ c ≠ '1' := by
  refine ⟨fun h => ?_, binToUint_of_invalid⟩
  rcases nil_or_binary_or_invalid t with rfl | ⟨nonempty, binary⟩ | invalid
  · cases h
  · cases (binToUint_of_binary nonempty binary).symm.trans h
  · exact invalid

/-- The empty string alone is refused (log 12). -/
theorem binToUint_eq_emptyString_iff (t : Text) : binToUint t = .refused .emptyString ↔ t = [] := by
  refine ⟨fun h => ?_, fun h => if_pos h⟩
  rcases nil_or_binary_or_invalid t with empty | ⟨nonempty, binary⟩ | invalid
  · exact empty
  · cases (binToUint_of_binary nonempty binary).symm.trans h
  · cases (binToUint_of_invalid invalid).symm.trans h

/-- A leading zero does not change the number a string spells. -/
@[simp] theorem spell_zero_cons (t : Text) : spell ('0' :: t) = spell t := by simp [spell]

/-- The characters of `str_k` are `0` and `1` (R9). -/
theorem binary_of_mem_str {k : Nat} (v : BitVec k) : ∀ c ∈ str v, c = '0' ∨ c = '1' := by
  intro c hc
  obtain ⟨i, -, rfl⟩ := List.mem_map.mp hc
  exact (ite_eq_or_eq _ _ _).symm

/-- Settles O55: the two errors by their conditions; a binary string is answered with what it spells
(`binToUint_of_binary`), which is the number of `bits` (R9), and a leading zero keeps it. -/
theorem binToUintValidatesAndConverts : Obligations.BinToUintValidatesAndConverts := by
  refine ⟨fun t => (binToUint_eq_formatError_iff t).symm, fun t => (binToUint_eq_emptyString_iff t).symm,
    fun t nonempty binary => ?_, fun k v hk => ?_⟩
  · have number : (bits t).toNat = spell t := (binaryStringsAreBitVectors.2 t binary).2
    have zeroCons : ∀ c ∈ '0' :: t, c = '0' ∨ c = '1' := List.forall_mem_cons.mpr ⟨.inl rfl, binary⟩
    rw [binToUint_of_binary nonempty binary, binToUint_of_binary (List.cons_ne_nil _ _) zeroCons, number,
      spell_zero_cons]
    exact ⟨rfl, rfl⟩
  · have nonempty : str v ≠ [] := List.ne_nil_of_length_pos ((length_str v).symm ▸ hk)
    rw [binToUint_of_binary nonempty (binary_of_mem_str v), spell_str]

end Sys2Proof.Machine
end

section
/-! The two renderings (R136, R137), under either value of `SIGN_MODE`, and the decimal numeral they print (R135). -/

namespace Sys2Proof.Machine

/-- A sign bit is carried on `res` as 1 exactly when it is 1. -/
theorem zext128_eq_one_iff (b : BitVec 1) : zext128 b = 1 ↔ b = 1#1 := by
  revert b
  decide

/-- The numeral of one bit is its digit. -/
theorem dec_bit (b : BitVec 1) : dec (b.toNat : Int) = if b = 1#1 then ['1'] else ['0'] := by
  revert b
  decide

/-- The fields as `splitRender` joins them, with the sign as one digit. -/
theorem splitRender_eq (mode : SignMode) (f : Operand) :
    splitRender mode f = (if signBit mode f = 1#1 then ['1'] else ['0']) ++ [',', ' '] ++ str (exponentField f) ++
      [',', ' '] ++ str (mantissaField f) := by
  rw [splitRender, dec_bit]

/-- The sign digit, twice a comma and a space, and the 11 and 52 characters of the fields. -/
theorem length_splitRender (mode : SignMode) (f : Operand) : (splitRender mode f).length = 68 := by
  have digit : (if signBit mode f = 1#1 then ['1'] else ['0']).length = 1 := by split <;> rfl
  simp only [splitRender_eq, List.length_append, digit, length_str, List.length_cons, List.length_nil]

/-- Settles O53: what the block returns are the sign bit and the two fields (`exec_eq`), and `splitRender` joins these
(`splitRender_eq`). -/
theorem splitRenderJoinsTheFields : Obligations.SplitRenderJoinsTheFields := by
  intro f s
  refine ⟨_, _, _, exec_eq (.fsign f) s, exec_eq (.fexpf f) s, exec_eq (.fmanf f) s, ?_, length_splitRender _ f⟩
  simp only [zext128_eq_one_iff]
  rw [extractLsb'_zext128 (by decide), extractLsb'_zext128 (by decide)]
  exact splitRender_eq _ f

/-- `dec` is a hyphen for a negative number, then the digits of the absolute value (R135). -/
theorem dec_eq (z : Int) : dec z = (if z < 0 then ['-'] else []) ++ Nat.toDigits 10 z.natAbs := by
  rw [dec]
  split_ifs <;> rfl

/-- A decimal digit is one of the ASCII characters 48 to 57 (log 20). -/
theorem toNat_range_of_mem_toDigits {n : Nat} {c : Char} (hc : c ∈ Nat.toDigits 10 n) :
    48 ≤ c.toNat ∧ c.toNat ≤ 57 := by
  have digit : c.isDigit = true := Nat.isDigit_of_mem_toDigits (by decide) le_rfl hc
  simpa [Char.isDigit, UInt32.le_iff_toNat_le] using digit

/-- Only 0 has a numeral that begins with `0` (R135): dropping the last digit keeps the first one. -/
theorem eq_zero_of_head?_toDigits {n : Nat} (h : (Nat.toDigits 10 n).head? = some '0') : n = 0 := by
  induction n using Nat.strong_induction_on with
  | h n ih =>
    rcases Nat.lt_or_ge n 10 with short | long
    · rw [Nat.toDigits_of_lt_base short, List.head?_cons, Option.some_inj] at h
      exact Nat.digitChar_eq_zero.mp h
    · rw [Nat.toDigits_of_base_le (by decide) long, List.head?_append_of_ne_nil _ Nat.toDigits_ne_nil] at h
      have front : n / 10 = 0 := ih (n / 10) (by omega) h
      omega

/-- What `trimZeros` removes is a run of trailing zeros (R137). -/
theorem exists_trimZeros_append (t : Text) : ∃ z : Nat, t = trimZeros t ++ List.replicate z '0' := by
  have zeros : ∀ c ∈ t.rtakeWhile (· == '0'), c = '0' :=
    fun _ hc => beq_iff_eq.mp (List.mem_rtakeWhile_imp (p := (· == '0')) hc)
  refine ⟨(t.rtakeWhile (· == '0')).length, ?_⟩
  rw [← List.eq_replicate_of_mem zeros]
  exact List.rdropWhile_append_rtakeWhile.symm

/-- `trimZeros` leaves no trailing zero (R137). -/
theorem getLast?_trimZeros_ne (t : Text) : (trimZeros t).getLast? ≠ some '0' := by
  intro h
  have nonempty : trimZeros t ≠ [] := fun empty => by simp [empty] at h
  rw [List.getLast?_eq_some_getLast nonempty, Option.some_inj] at h
  exact List.rdropWhile_last_not (· == '0') t nonempty (beq_iff_eq.mpr h)

/-- `res` carries the unbiased exponent as itself (R84). -/
theorem toInt_signedResult_exponentValue (f : Operand) : (signedResult (exponentValue f)).toInt = exponentValue f := by
  obtain ⟨low, high⟩ := exponentValue_range f
  exact toInt_signedResult (by omega)

/-- Settles O54: `dec` by the library's facts about the digits it prints and `eq_zero_of_head?_toDigits`; the template
is `scientificRender`'s own, on the sign bit, the mantissa field and the exponent that the block returns. -/
theorem scientificRenderFollowsItsTemplate : Obligations.ScientificRenderFollowsItsTemplate := by
  refine ⟨fun z => ⟨Nat.toDigits 10 z.natAbs, dec_eq z, Nat.toDigits_ne_nil, fun c => toNat_range_of_mem_toDigits,
    ?_, fun leadingZero => ?_⟩, fun f s => ?_⟩
  · exact Nat.ofDigitChars_eq_foldl.symm.trans Nat.ofDigitChars_ten_toDigits
  · have zero : z.natAbs = 0 := eq_zero_of_head?_toDigits leadingZero
    exact ⟨zero ▸ Nat.toDigits_zero 10, Int.natAbs_eq_zero.mp zero⟩
  · obtain ⟨z, trimmed⟩ := exists_trimZeros_append (str (mantissaField f))
    refine ⟨_, _, _, trimZeros (str (mantissaField f)), z, exec_eq (.fsign f) s, exec_eq (.fmanf f) s,
      exec_eq (.fexpv f) s, ?_, getLast?_trimZeros_ne _, ?_⟩
    · rwa [extractLsb'_zext128 (by decide)]
    · simp only [zext128_eq_one_iff, toInt_signedResult_exponentValue]
      rfl

end Sys2Proof.Machine
end

section
/-! The causes of the errors (R150 to R154): when each is answered is said by `instrResponse_eq_domainValue_iff`,
`instrResponse_eq_domainWidth_iff` and `instrResponse_eq_illegalOp_iff`; here these are tied to R152's list of the
causes of an operation, and put in R154's order. -/

namespace Sys2Proof.Machine

/-- An instruction that truncates to a width hands a value to `bitlen` first (R110, R154). -/
theorem exists_checkedValue_of_truncationWidth {i : Instr} {n : Nat} (h : i.truncationWidth = some n) :
    ∃ v, i.checkedValue = some v := by
  cases i <;> simp_all [Instr.truncationWidth, Instr.checkedValue]

/-- The checked value and the width with which an instruction answers `DOMAIN_WIDTH`, with the value named (R151). -/
theorem instrResponse_eq_domainWidth_iff_exists (i : Instr) :
    instrResponse i = .error .domainWidth ↔
      (∃ v, i.checkedValue = some v ∧ v ≠ 0) ∧ i.truncationWidth = some 0 := by
  rw [instrResponse_eq_domainWidth_iff]
  refine and_congr_left fun width => ?_
  obtain ⟨v, hv⟩ := exists_checkedValue_of_truncationWidth width
  simp [hv]

/-- The reserved instruction is the one instruction of its operation. -/
theorem op_eq_reserved15_iff (i : Instr) : i.op = .reserved15 ↔ i = .reserved15 := by
  cases i <;> simp [Instr.op]

/-- `DOMAIN_VALUE` is listed for the operations that hand a value to `bitlen` (R152). -/
theorem domainValue_mem_causes_iff (i : Instr) : .domainValue ∈ causes i.op ↔ ∃ v, i.checkedValue = some v := by
  cases i <;> simp [causes, Instr.op, Instr.checkedValue]

/-- `DOMAIN_WIDTH` is listed for the operations that truncate to a width (R152). -/
theorem domainWidth_mem_causes_iff (i : Instr) : .domainWidth ∈ causes i.op ↔ ∃ n, i.truncationWidth = some n := by
  cases i <;> simp [causes, Instr.op, Instr.truncationWidth]

/-- `ILLEGAL_OP` is listed for the reserved code alone (R152). -/
theorem illegalOp_mem_causes_iff (o : Op) : .illegalOp ∈ causes o ↔ o = .reserved15 := by
  cases o <;> simp [causes]

/-- An instruction answers only the causes listed for its operation (R152). -/
theorem mem_causes_of_instrResponse {i : Instr} {c : Cause} (h : instrResponse i = .error c) : c ∈ causes i.op := by
  cases c with
  | domainValue => exact (domainValue_mem_causes_iff i).mpr ⟨0, (instrResponse_eq_domainValue_iff i).mp h⟩
  | domainWidth =>
    obtain ⟨-, width⟩ := (instrResponse_eq_domainWidth_iff i).mp h
    exact (domainWidth_mem_causes_iff i).mpr ⟨0, width⟩
  | illegalOp => exact (illegalOp_mem_causes_iff i.op).mpr ((instrResponse_eq_illegalOp_iff i).mp h)

/-- The value an operation checks on zero operands is 0, as a sum and as a product. -/
theorem checkedValue_instr_zero {o : Op} (n : WidthField) (h : .domainValue ∈ causes o) :
    (o.instr n 0 0).checkedValue = some 0 := by
  cases o <;> simp_all [causes, Op.instr, Instr.checkedValue]

/-- The value an operation checks on operands 1 is not 0. -/
theorem checkedValue_instr_one (o : Op) (n : WidthField) : (o.instr n 1 1).checkedValue ≠ some 0 := by
  cases o <;> simp [Op.instr, Instr.checkedValue]

/-- A truncating operation truncates to the width of its field. -/
theorem truncationWidth_instr {o : Op} (n : WidthField) (a b : Operand) (h : .domainWidth ∈ causes o) :
    (o.instr n a b).truncationWidth = some n.toNat := by
  cases o <;> simp_all [causes, Op.instr, Instr.truncationWidth]

/-- Every cause listed for an operation is answered on some operands: `DOMAIN_VALUE` on zeros, `DOMAIN_WIDTH` on ones
with the width 0 (R152). -/
theorem exists_instrResponse_of_mem_causes {o : Op} {c : Cause} (h : c ∈ causes o) :
    ∃ i : Instr, i.op = o ∧ instrResponse i = .error c := by
  cases c with
  | domainValue =>
    exact ⟨o.instr 0 0 0, o.op_instr 0 0 0, (instrResponse_eq_domainValue_iff _).mpr (checkedValue_instr_zero 0 h)⟩
  | domainWidth =>
    exact ⟨o.instr 0 1 1, o.op_instr 0 1 1,
      (instrResponse_eq_domainWidth_iff _).mpr ⟨checkedValue_instr_one o 0, truncationWidth_instr 0 1 1 h⟩⟩
  | illegalOp => exact ⟨.reserved15, ((illegalOp_mem_causes_iff o).mp h).symm, rfl⟩

/-- Settles O17: an instruction answers its response from every state (`exec_eq`); the conditions of the three causes,
and that each operation answers exactly the causes listed for it, are facts about that response. -/
theorem causesAreRaisedExactlyWhenTheyApply : Obligations.CausesAreRaisedExactlyWhenTheyApply := by
  refine ⟨⟨rfl, rfl, rfl⟩, ⟨rfl, rfl, rfl⟩, fun _ => rfl, fun i s => ?_, fun i s c h => ?_, fun o c h => ?_⟩
  · simp only [exec_eq, next_answer_inj]
    exact ⟨instrResponse_eq_domainValue_iff i, instrResponse_eq_domainWidth_iff_exists i,
      (instrResponse_eq_illegalOp_iff i).trans (op_eq_reserved15_iff i)⟩
  · rw [exec_eq, next_answer_inj] at h
    exact mem_causes_of_instrResponse h
  · obtain ⟨i, op, response⟩ := exists_instrResponse_of_mem_causes h
    exact ⟨i, op, fun s => response ▸ exec_eq i s⟩

/-- Settles O18: the reserved code needs no operand (`reservedCodeIsIllegal`), the condition of `DOMAIN_VALUE` does not
look at the width, and that of `DOMAIN_WIDTH` asks for a value other than 0. -/
theorem causePriority : Obligations.CausePriority := by
  obtain ⟨-, illegal, -⟩ := reservedCodeIsIllegal
  obtain ⟨-, -, -, raised, -, -⟩ := causesAreRaisedExactlyWhenTheyApply
  refine ⟨illegal, fun i s value _ => ?_, fun i s v value nonzero width => ?_⟩
  · obtain ⟨domainValue, -, -⟩ := raised i s
    exact domainValue.mpr value
  · obtain ⟨-, domainWidth, -⟩ := raised i s
    exact domainWidth.mpr ⟨⟨v, value, nonzero⟩, width⟩

end Sys2Proof.Machine
end

section
/-! The zero-feedback hazard (R179): when a truncating operation answers the result 0. -/

namespace Sys2Proof.Machine

/-- A truncating operation whose policy does not increase its value answers 0 exactly when both checks pass and the
policy gives 0: `res` carries the policy's number, so that no other number turns into 0 there. -/
theorem truncatedResponse_eq_zero_iff {policy : Nat → Nat → Nat} {v n : Nat} (le : v ≠ 0 → policy v n ≤ v)
    (room : v < 2 ^ 128) : truncatedResponse policy v n = .result 0 ↔ v ≠ 0 ∧ n ≠ 0 ∧ policy v n = 0 := by
  constructor
  · intro h
    obtain ⟨value, width, number, -⟩ := toNat_of_truncatedResponse h le (Nat.le_sub_one_of_lt room) (by decide)
    exact ⟨value, width, number.symm⟩
  · rintro ⟨value, width, zero⟩
    rw [truncatedResponse_of_ne policy value width, zero]
    rfl

/-- MSB truncation answers 0 exactly for a non-zero multiple of `2^n` and a non-zero width (R103). -/
theorem truncatedResponse_msbt_eq_zero_iff {v : Nat} (room : v < 2 ^ 128) (n : WidthField) :
    truncatedResponse msbt v n.toNat = .result 0 ↔ v ≠ 0 ∧ n ≠ 0 ∧ 2 ^ n.toNat ∣ v := by
  rw [truncatedResponse_eq_zero_iff (fun _ => msbt_le v _) room, ← BitVec.toNat_ne_iff_ne]
  refine and_congr_right fun value => and_congr_right fun _ => ?_
  rw [msbt_eq_mod value, Nat.dvd_iff_mod_eq_zero]

/-- A truncating operation whose policy gives a positive number, no greater than the value, never answers 0. -/
theorem truncatedResponse_ne_zero {policy : Nat → Nat → Nat} {v n : Nat} (le : v ≠ 0 → policy v n ≤ v)
    (positive : v ≠ 0 → n ≠ 0 → 1 ≤ policy v n) (room : v < 2 ^ 128) : truncatedResponse policy v n ≠ .result 0 := by
  rw [Ne, truncatedResponse_eq_zero_iff le room]
  rintro ⟨value, width, zero⟩
  exact Nat.one_le_iff_ne_zero.mp (positive value width) zero

/-- Settles O49: MSB truncation of the operand, the exact sum or the exact product gives 0 for the multiples of `2^n`;
the LSB policies keep the leading bit; the refusal of 0 is among the cases of `zeroValueIsADomainError`. -/
theorem zeroResultFedBackIsRefused : Obligations.ZeroResultFedBackIsRefused := by
  intro n a b s
  have operand : a.toNat < 2 ^ 128 := a.isLt.trans (by decide)
  have operand_ne_zero : a ≠ 0 ↔ a.toNat ≠ 0 := BitVec.toNat_ne_iff_ne.symm
  refine ⟨?_, ?_, ?_, ?_, fun i hi => zeroValueIsADomainError n b s i ?_⟩
  · rw [exec_eq, next_answer_inj, operand_ne_zero]
    exact truncatedResponse_msbt_eq_zero_iff operand n
  · rw [exec_eq, next_answer_inj]
    exact truncatedResponse_msbt_eq_zero_iff (sum_lt a b) n
  · rw [exec_eq, next_answer_inj]
    exact truncatedResponse_msbt_eq_zero_iff (product_lt a b) n
  · simp only [exec_eq, next_answer_inj, ne_eq, List.forall_mem_cons, List.not_mem_nil, false_imp_iff, implies_true,
      and_true]
    have leading {v : Nat} (room : v < 2 ^ 128) : truncatedResponse lsbt v n.toNat ≠ .result 0 :=
      truncatedResponse_ne_zero (fun _ => lsbt_le v _) lsbt_pos room
    exact ⟨leading operand, truncatedResponse_ne_zero (lsbta_le · _) lsbta_pos operand, leading (sum_lt a b),
      leading (product_lt a b)⟩
  · revert i
    simp

end Sys2Proof.Machine
end
